-- ==== Sys2Proof/Word.lean ====
section
/-! DEFINITION. The word types of the PCE (00_scope.md R6): register and bus words are 32 bits, register pairs 64,
buffer bytes 8, port addresses 18. -/

namespace Sys2Proof

/-- One byte of a buffer (10_state.md R43, R44). -/
abbrev Byte := BitVec 8

/-- A 16-bit wire field (status, compact frame id, leader payload type). -/
abbrev Half := BitVec 16

/-- A register, a bus data word, a command word (R6, R18). -/
abbrev Word := BitVec 32

/-- A register pair: RESULT, ARG, TICK_FREQ, the leader's tick count (R6, R9). -/
abbrev DWord := BitVec 64

/-- A port byte address, 0x00000-0x3FFFF (20_memory.md R49). -/
abbrev PortAddr := BitVec 18

end Sys2Proof
end

