-- ==== Sys2Proof/Config.lean ====
section
/-! DEFINITION. What an implementation fixes: the four parameters of 00_scope.md R5, and the spec's constants that a
rule fixes for every implementation. -/

namespace Sys2Proof

/-- The parameters the model takes as arguments (00_scope.md R5; 92_eei_decisions.md D3, D4, D17, D18). They are no
state (10_state.md R16); a state carries them in a field that no step changes (log 3). -/
structure Params where
  /-- PB_SIZE, bytes in the packet buffer; legal from 64 to 65536. -/
  pbSize : Nat
  /-- SB_SIZE, bytes in the source buffer; legal from PB_SIZE - 8 to 65536. -/
  sbSize : Nat
  /-- P_LEADER_PTYPE, the payload type ENC_LEADER writes. -/
  leaderPtype : Half
  /-- P_TRAILER_PTYPE, the payload type ENC_TRAILER writes. -/
  trailerPtype : Word
  deriving DecidableEq, Repr

/-- The default of each parameter (00_scope.md R5). -/
def defaultParams : Params :=
  { pbSize := 9216, sbSize := 9216, leaderPtype := 0x0001#16, trailerPtype := 0x00000001#32 }

/-- The constant of the ID register, "GVSP" in ASCII (10_state.md R19). -/
def idConstant : Word := 0x47565350#32

/-- The constant of the VERSION register, MAJOR 1 and MINOR 0 (R20). -/
def versionConstant : Word := 0x00010000#32

/-- The content types the encoders write (30_encoding.md R76). -/
def ctLeader : BitVec 7 := 0x01#7
/-- See `ctLeader`. -/
def ctTrailer : BitVec 7 := 0x02#7
/-- See `ctLeader`. -/
def ctDataBlock : BitVec 7 := 0x03#7

/-- The buffer kind of an unknown payload type (30_encoding.md R95). -/
def kindUnknown : Word := 0xFFFFFFFF#32

end Sys2Proof
end

