-- ==== Sys2Proof/Syntax.lean ====
section
/-! DEFINITION. The commands of the engine: one constructor per row of spec/opcode_table.json (30_encoding.md R90). -/

namespace Sys2Proof

/-- A legal command. The command word has no register fields and no immediates, so no constructor has an argument:
every operand is implicit (30_encoding.md R87). -/
inductive Instr where
  | nop
  | classify
  | getHeaderMode
  | getPacketType
  | isError
  | getContentType
  | getPacketId
  | getFrameId
  | getDataOffset
  | getDataSize
  | getPayloadType
  | getPixelFormat
  | getWidth
  | getHeight
  | getXOffset
  | getYOffset
  | getTsTicks
  | getTsNs
  | getBufferKind
  | mapBufferKind
  | scaleTs
  | encLeader
  | encTrailer
  | encDataBlock
  | bswap16
  | bswap32
  | bswap64
  deriving DecidableEq, Repr

end Sys2Proof
end

