-- ==== Sys2Proof/WellFormed.lean ====
section
/-! DEFINITION. The checks on what the outside gives the machine: the ranges of the parameters (00_scope.md R5) and
the legal command words (30_encoding.md R86, R89). An `Instr` has no operand field to check (R87). -/

namespace Sys2Proof

/-- The legal ranges of the parameters (00_scope.md R5). -/
abbrev Params.Legal (p : Params) : Prop :=
  64 ≤ p.pbSize ∧ p.pbSize ≤ 65536 ∧ p.pbSize - 8 ≤ p.sbSize ∧ p.sbSize ≤ 65536

/-- RESERVED = w[31:8] is 0 (30_encoding.md R85). -/
def reservedIsZero (w : Word) : Bool := w.toNat / 256 == 0

/-- OPCODE = w[7:0] is listed: it lies outside the gaps 0x0A-0x0F, 0x1B-0x1F, 0x23-0x2F and 0x33-0xFF (R89). -/
def opcodeIsListed (w : Word) : Bool :=
  let op := w.toNat % 256
  op ≤ 0x09 || (0x10 ≤ op && op ≤ 0x1A) || (0x20 ≤ op && op ≤ 0x22) || (0x30 ≤ op && op ≤ 0x32)

/-- A legal command word (R86). It is written from R89's gaps and not from the decoder's table, so that the two can be
compared. -/
def legalWord (w : Word) : Bool := reservedIsZero w && opcodeIsListed w

/-- Every `Instr` is well formed: it carries no operand that could be out of range (R87). -/
def Instr.wf (_ : Instr) : Bool := true

end Sys2Proof
end

