-- ==== Sys2Proof/Decode.lean ====
section
/-! DEFINITION. The command word (30_encoding.md Part B): decode, total on every 32-bit word and refusing by name, and
the encoder. There is no instruction memory and no fetch of bytes (20_memory.md R65): a command is the 32-bit data word
of a CMD write, which the port moves unchanged (R51). -/

namespace Sys2Proof

/-- Why a command word is illegal (30_encoding.md R89). -/
inductive IllegalWord where
  /-- w[31:8] is not 0. -/
  | reservedNonzero
  /-- w[7:0] is not in the opcode map of R90. -/
  | unlistedOpcode
  deriving DecidableEq, Repr

/-- OPCODE = w[7:0] (30_encoding.md R85). -/
def opcodeField (w : Word) : BitVec 8 := w.extractLsb' 0 8

/-- RESERVED = w[31:8] (R85). -/
def reservedField (w : Word) : BitVec 24 := w.extractLsb' 8 24

/-- The opcode map of 30_encoding.md R90. -/
def decodeOpcode (op : BitVec 8) : Except IllegalWord Instr :=
  match op.toNat with
  | 0x00 => .ok .nop
  | 0x01 => .ok .classify
  | 0x02 => .ok .getHeaderMode
  | 0x03 => .ok .getPacketType
  | 0x04 => .ok .isError
  | 0x05 => .ok .getContentType
  | 0x06 => .ok .getPacketId
  | 0x07 => .ok .getFrameId
  | 0x08 => .ok .getDataOffset
  | 0x09 => .ok .getDataSize
  | 0x10 => .ok .getPayloadType
  | 0x11 => .ok .getPixelFormat
  | 0x12 => .ok .getWidth
  | 0x13 => .ok .getHeight
  | 0x14 => .ok .getXOffset
  | 0x15 => .ok .getYOffset
  | 0x16 => .ok .getTsTicks
  | 0x17 => .ok .getTsNs
  | 0x18 => .ok .getBufferKind
  | 0x19 => .ok .mapBufferKind
  | 0x1A => .ok .scaleTs
  | 0x20 => .ok .encLeader
  | 0x21 => .ok .encTrailer
  | 0x22 => .ok .encDataBlock
  | 0x30 => .ok .bswap16
  | 0x31 => .ok .bswap32
  | 0x32 => .ok .bswap64
  | _ => .error .unlistedOpcode

/-- Decode of a command word: the whole 32-bit word selects the command (R86). -/
def decode (w : Word) : Except IllegalWord Instr :=
  if reservedField w = 0#24 then decodeOpcode (opcodeField w) else .error .reservedNonzero

/-- The opcode of a command (30_encoding.md R90). -/
def Instr.opcode : Instr → BitVec 8
  | .nop => 0x00#8
  | .classify => 0x01#8
  | .getHeaderMode => 0x02#8
  | .getPacketType => 0x03#8
  | .isError => 0x04#8
  | .getContentType => 0x05#8
  | .getPacketId => 0x06#8
  | .getFrameId => 0x07#8
  | .getDataOffset => 0x08#8
  | .getDataSize => 0x09#8
  | .getPayloadType => 0x10#8
  | .getPixelFormat => 0x11#8
  | .getWidth => 0x12#8
  | .getHeight => 0x13#8
  | .getXOffset => 0x14#8
  | .getYOffset => 0x15#8
  | .getTsTicks => 0x16#8
  | .getTsNs => 0x17#8
  | .getBufferKind => 0x18#8
  | .mapBufferKind => 0x19#8
  | .scaleTs => 0x1A#8
  | .encLeader => 0x20#8
  | .encTrailer => 0x21#8
  | .encDataBlock => 0x22#8
  | .bswap16 => 0x30#8
  | .bswap32 => 0x31#8
  | .bswap64 => 0x32#8

/-- The command word of a command: RESERVED zero above the opcode (30_encoding.md R85). -/
def encode (i : Instr) : Word := 0#24 ++ i.opcode

/-- The command the decoder reads from an instruction whose bits are `w`, numbered as spec/opcode_table.json numbers
them. A command is one 32-bit bus word, moved unchanged (20_memory.md R51), so bit n of `w` is bit n of the word. A
number with a bit above bit 31 is no command word. -/
def decodeTableWord (_nbits w : Nat) : Option Instr :=
  if w < 0x100000000 then (decode (BitVec.ofNat 32 w)).toOption else none

end Sys2Proof
end

