-- ==== Sys2Proof/Machine/State.lean ====
section
/-! DEFINITION. The state of one PCE (10_state.md R16) as plain data, the reasons a step can stop, and reset. -/

namespace Sys2Proof.Machine

/-- The access width of a host transaction, 1, 2 or 4 bytes (20_memory.md R49). -/
inductive Width where
  | byte
  | half
  | word
  deriving DecidableEq, Repr

/-- A host port transaction (20_memory.md R49): BusRead(a, w) and BusWrite(a, w, v). -/
inductive Txn where
  | read (a : PortAddr) (w : Width)
  | write (a : PortAddr) (w : Width) (v : Word)
  deriving DecidableEq, Repr

/-- What the outside does to the machine, in order: a transaction the host issues (R49), or a change of the reset input
(70_reset_and_hazards.md R156). -/
inductive HostEvent where
  | bus (t : Txn)
  | assertReset
  | releaseReset
  deriving DecidableEq, Repr

/-- The two responses of the port (20_memory.md R49). -/
inductive BusStatus where
  | okay
  | error
  deriving DecidableEq, Repr

/-- How a transaction ended: a read carries its 32-bit data word (R49). -/
inductive Response where
  | readDone (st : BusStatus) (data : Word)
  | writeDone (st : BusStatus)
  deriving DecidableEq, Repr

/-- A buffer: the written bytes and their offsets, offsets strictly rising. An offset that is not listed is UNWRITTEN
and has no value (20_memory.md R67). -/
abbrev Memory := List Host.Cell

/-- The canonical form of a buffer: offsets strictly rising, so each offset at most once. -/
abbrev Memory.wf (m : Memory) : Prop := m.Pairwise (fun x y => x.1 < y.1)

/-- Everything the spec gives the machine (10_state.md R16), and the model's own record of the port (log 1, 2). The
hardwired registers ID, VERSION, PB_SIZE_REG and SB_SIZE_REG and the valueless CMD have no field (R19-R23). -/
structure State where
  /-- The parameters, constant (00_scope.md R5; log 3). -/
  params : Params
  /-- STATUS (10_state.md R24): DONE [0], E_ILLEGAL [8], E_SIZE [9], E_CAP [10], E_BUS [11], LAST_ERR [19:16]. -/
  status : Word
  /-- PKT_LEN (R27). -/
  pktLen : Word
  /-- ENC_CAP (R28). -/
  encCap : Word
  /-- TICK_FREQ_LO (R29). -/
  tickFreqLo : Word
  /-- TICK_FREQ_HI (R29). -/
  tickFreqHi : Word
  /-- ARG_LO (R30). -/
  argLo : Word
  /-- ARG_HI (R30). -/
  argHi : Word
  /-- RESULT_LO (R31). -/
  resultLo : Word
  /-- RESULT_HI (R31). -/
  resultHi : Word
  /-- IN_FRAME_ID [15:0]; [31:16] are RAZ/WI and have no storage (R32; log 7). -/
  inFrameId : Half
  /-- IN_PACKET_ID (R33). -/
  inPacketId : Word
  /-- IN_TS_LO (R34). -/
  inTsLo : Word
  /-- IN_TS_HI (R34). -/
  inTsHi : Word
  /-- IN_PIXEL_FORMAT (R35). -/
  inPixelFormat : Word
  /-- IN_WIDTH (R36). -/
  inWidth : Word
  /-- IN_HEIGHT (R37). -/
  inHeight : Word
  /-- IN_X_OFFSET (R38). -/
  inXOffset : Word
  /-- IN_Y_OFFSET (R39). -/
  inYOffset : Word
  /-- IN_DATA_LEN (R40). -/
  inDataLen : Word
  /-- PB, the packet buffer (R43). -/
  pb : Memory
  /-- SB, the source buffer (R44). -/
  sb : Memory
  /-- The level of the reset input (70_reset_and_hazards.md R156; log 5). -/
  resetAsserted : Bool
  /-- What the host has issued and the port has not completed, oldest first (20_memory.md R49, R58; log 1). -/
  pending : List HostEvent
  /-- The responses the port has given, newest first (R49; log 2). -/
  responses : List Response
  deriving DecidableEq, Repr

/-- Why the machine stops. -/
inductive Fault where
  /-- UNWRITTEN_READ (20_memory.md R67): a command whose result depends on a PB byte that nothing has written, or a host
  read of an unwritten PB or SB byte. Raised by the PB commands and by window reads. SAFE: the chip returns some value
  where the model stops, so no claim can rest on that value. -/
  | unwrittenRead
  deriving DecidableEq, Repr

/-- Why an instruction has no meaning. -/
inductive Refusal where
  /-- The instruction has no meaning in the model yet; raised only by an arm of `exec`. SAFE: nothing can be proved of a
  run that needs it. No arm raises it. -/
  | notModelled (mnemonic : String)
  deriving DecidableEq, Repr

/-- The machine right after reset with the parameters `p` (10_state.md R42): every register 0, every PB and SB byte
unwritten (R67), the reset input released and nothing issued (log 1, 5). -/
def State.resetWith (p : Params) : State where
  params := p
  status := 0#32
  pktLen := 0#32
  encCap := 0#32
  tickFreqLo := 0#32
  tickFreqHi := 0#32
  argLo := 0#32
  argHi := 0#32
  resultLo := 0#32
  resultHi := 0#32
  inFrameId := 0#16
  inPacketId := 0#32
  inTsLo := 0#32
  inTsHi := 0#32
  inPixelFormat := 0#32
  inWidth := 0#32
  inHeight := 0#32
  inXOffset := 0#32
  inYOffset := 0#32
  inDataLen := 0#32
  pb := []
  sb := []
  resetAsserted := false
  pending := []
  responses := []

/-- The machine right after reset with the default parameters (00_scope.md R5; 10_state.md R42). -/
def State.reset : State := State.resetWith defaultParams

end Sys2Proof.Machine
end

