-- ==== Sys2Proof/Machine/Flags.lean ====
section
/-! DEFINITION. The STATUS word (10_state.md R24-R26): every way a bit of it changes. -/

namespace Sys2Proof.Machine

/-- An error a command raises (60_exceptions.md R136). -/
inductive CmdError where
  | illegal
  | size
  | cap
  deriving DecidableEq, Repr

/-- The LAST_ERR code of an error (10_state.md R26). -/
def CmdError.code : CmdError → BitVec 4
  | .illegal => 1#4
  | .size => 2#4
  | .cap => 3#4

/-- The STATUS bit of an error: E_ILLEGAL [8], E_SIZE [9], E_CAP [10] (10_state.md R24). -/
def CmdError.flag : CmdError → Word
  | .illegal => 0x00000100#32
  | .size => 0x00000200#32
  | .cap => 0x00000400#32

/-- DONE [0] (R24). -/
def flagDone : Word := 0x00000001#32

/-- E_BUS [11] (R24). -/
def flagBus : Word := 0x00000800#32

/-- The W1C bits: DONE and the four E_* (R24, R25). -/
def w1cMask : Word := 0x00000F01#32

/-- LAST_ERR [19:16] (R24). -/
def lastErrOf (st : Word) : BitVec 4 := st.extractLsb' 16 4

/-- LAST_ERR <- code, the other bits kept. -/
def setLastErr (st : Word) (code : BitVec 4) : Word :=
  (st &&& ~~~0x000F0000#32) ||| (code.setWidth 32 <<< 16)

/-- `finish`: LAST_ERR <- 0 and DONE <- 1 (00_scope.md R9; 40_classify.md R99). -/
def statusFinish (st : Word) : Word := setLastErr st 0#4 ||| flagDone

/-- `raise E(code)`: the bit of E, LAST_ERR <- code, and DONE <- 1 (60_exceptions.md R137; R99). -/
def statusRaise (st : Word) (e : CmdError) : Word := setLastErr st e.code ||| e.flag ||| flagDone

/-- A bus error sets E_BUS and nothing else (20_memory.md R52). -/
def statusBus (st : Word) : Word := st ||| flagBus

/-- A host write of `w` to STATUS: write 1 to clear (10_state.md R25). -/
def statusW1c (st w : Word) : Word := st &&& ~~~(w &&& w1cMask)

end Sys2Proof.Machine
end

