-- ==== Sys2Proof/Machine/Ops.lean ====
section
/-! DEFINITION. The named operations over buffers and registers: byte and wire-field access (00_scope.md R9), and the
shared ends of a command: an answer in RESULT, `finish`, and `raise`, which is all that taking an exception is on this
hardware (60_exceptions.md R137, R145): no state is saved, no mode changes and there is nothing to return from (R146). -/

namespace Sys2Proof.Machine

/-! ## Buffers -/

/-- The byte at an offset, none where nothing has written it (20_memory.md R67). -/
def Memory.read : Memory → Nat → Option Byte
  | [], _ => none
  | (a, b) :: r, k => if a = k then some b else Memory.read r k

/-- Write one byte, which marks it written (R67). -/
def Memory.set : Memory → Nat → Byte → Memory
  | [], k, v => [(k, v)]
  | (a, b) :: r, k, v =>
    if k < a then (k, v) :: (a, b) :: r
    else if k = a then (k, v) :: r
    else (a, b) :: Memory.set r k v

/-- Copy the first `n` bytes of `src`, each with its written mark, to `dst` from offset `at0` on: offset `at0 + i` of the
result is offset `i` of `src` (43_encoder.md R129; 20_memory.md R67; log 12). -/
def Memory.copyInto (dst src : Memory) (at0 n : Nat) : Memory :=
  dst.filter (fun c => decide (c.1 < at0))
    ++ ((src.filter (fun c => decide (c.1 < n))).map (fun c => (at0 + c.1, c.2))
      ++ dst.filter (fun c => decide (at0 + n ≤ c.1)))

/-- MemRead(a, 2), big-endian (00_scope.md R9). -/
def Memory.read16 (m : Memory) (a : Nat) : Option Half :=
  match m.read a, m.read (a + 1) with
  | some b0, some b1 => some (b0 ++ b1)
  | _, _ => none

/-- MemRead(a, 4). -/
def Memory.read32 (m : Memory) (a : Nat) : Option Word :=
  match m.read16 a, m.read16 (a + 2) with
  | some h, some l => some (h ++ l)
  | _, _ => none

/-- MemRead(a, 8). -/
def Memory.read64 (m : Memory) (a : Nat) : Option DWord :=
  match m.read32 a, m.read32 (a + 4) with
  | some h, some l => some (h ++ l)
  | _, _ => none

/-- MemWrite(a, 2, v), big-endian (00_scope.md R9). -/
def Memory.write16 (m : Memory) (a : Nat) (v : Half) : Memory :=
  (m.set a (v.extractLsb' 8 8)).set (a + 1) (v.extractLsb' 0 8)

/-- MemWrite(a, 4, v). -/
def Memory.write32 (m : Memory) (a : Nat) (v : Word) : Memory :=
  (m.write16 a (v.extractLsb' 16 16)).write16 (a + 2) (v.extractLsb' 0 16)

/-! ## Register pairs (00_scope.md R9, 10_state.md R18) -/

/-- ARG = ARG_HI : ARG_LO (10_state.md R30). -/
def State.arg (s : State) : DWord := s.argHi ++ s.argLo

/-- TICK_FREQ = TICK_FREQ_HI : TICK_FREQ_LO (R29). -/
def State.tickFreq (s : State) : DWord := s.tickFreqHi ++ s.tickFreqLo

/-- RESULT = RESULT_HI : RESULT_LO (R31). -/
def State.result (s : State) : DWord := s.resultHi ++ s.resultLo

/-- RESULT <- v (00_scope.md R9). -/
def State.setResult (s : State) (v : DWord) : State :=
  { s with resultLo := v.extractLsb' 0 32, resultHi := v.extractLsb' 32 32 }

/-- Replace PB. -/
def State.setPb (s : State) (m : Memory) : State := { s with pb := m }

/-! ## The ends of a command -/

/-- `finish` (00_scope.md R9). -/
def State.finish (s : State) : State := { s with status := statusFinish s.status }

/-- `raise E(code)`, the one shared error entry (60_exceptions.md R137). -/
def State.raiseErr (s : State) (e : CmdError) : State := { s with status := statusRaise s.status e }

/-- RESULT <- 0, then `raise`: how SIZE and CAP end a command (60_exceptions.md R136, R137). -/
def State.failWith (s : State) (e : CmdError) : State := (s.setResult 0#64).raiseErr e

/-- RESULT <- v, then `finish`. -/
def State.answer (s : State) (v : DWord) : State := (s.setResult v).finish

/-- An illegal command word (40_classify.md R105): RESULT and everything but STATUS unchanged. -/
def State.illegalCommand (s : State) : State := s.raiseErr .illegal

/-- A value that depends on PB bytes becomes the command's RESULT; the model stops where one of those bytes is unwritten
(20_memory.md R67). -/
def answerRead (s : State) (v : Option DWord) : Host.Outcome State Fault Refusal :=
  match v with
  | some r => .next (s.answer r)
  | none => .fault .unwrittenRead

/-! ## The port's record -/

/-- A refused transaction: E_BUS <- 1 (20_memory.md R52). -/
def State.busErr (s : State) : State := { s with status := statusBus s.status }

/-- Record the response to the transaction just completed (R49; log 2). -/
def State.respond (s : State) (r : Response) : State := { s with responses := r :: s.responses }

/-- Asserting the reset input: every register at its reset value, every PB and SB byte unwritten
(70_reset_and_hazards.md R156). What the host has issued and what it has been answered is not the machine's to clear
(log 5). -/
def State.hardReset (s : State) : State :=
  { State.resetWith s.params with
    resetAsserted := true, pending := s.pending, responses := s.responses }

/-- Do `f` to the next state; a fault or a refusal stays. -/
def mapNext (o : Host.Outcome State Fault Refusal) (f : State → State) : Host.Outcome State Fault Refusal :=
  match o with
  | .next s => .next (f s)
  | .fault r => .fault r
  | .refused r => .refused r

end Sys2Proof.Machine
end

