-- ==== Sys2Proof/Machine/Operands.lean ====
section
/-! DEFINITION. Every operand form (30_encoding.md R87, R88): the depacker (R82), the packer (R83), the buffer-kind map
(R95), the timestamp scaler (42_leader_timestamp.md R120) and the byte-order converter (44_byteorder_ops.md). A depacker
function answers none where a byte it names is unwritten (20_memory.md R67). -/

namespace Sys2Proof.Machine

/-! ## The depacker (R82) -/

/-- MODE of the byte PB[4]: its bit 7, 0 compact and 1 extended (R71, R72). -/
def modeOf (b : Byte) : BitVec 1 := b.extractLsb' 7 1

/-- CONTENT_TYPE of the byte PB[4]: its bits 6..0 (R71). -/
def contentTypeOf (b : Byte) : BitVec 7 := b.extractLsb' 0 7

/-- HS(m), the header size (30_encoding.md R75). -/
def headerSize (m : BitVec 1) : Nat := if m = 0#1 then 6 else 18

/-- DOFF(m) = 2 + HS(m) (R75). -/
def dataOffset (m : BitVec 1) : Nat := 2 + headerSize m

/-- STATUSW() (R82). -/
def pbStatus (pb : Memory) : Option Half := pb.read16 0

/-- MODE() (R82). -/
def pbMode (pb : Memory) : Option (BitVec 1) := (pb.read 4).map modeOf

/-- CT() (R82): it reads byte 4 alone. -/
def pbContentType (pb : Memory) : Option (BitVec 7) := (pb.read 4).map contentTypeOf

/-- PINFO() (R82). -/
def pbInfo (pb : Memory) : Option Word := pb.read32 4

/-- PID() (R82). -/
def pbPacketId (pb : Memory) : Option Word :=
  match pbMode pb with
  | some m => if m = 0#1 then (pbInfo pb).map (fun p => (p.extractLsb' 0 24).setWidth 32) else pb.read32 16
  | none => none

/-- FID() (R82). -/
def pbFrameId (pb : Memory) : Option DWord :=
  match pbMode pb with
  | some m => if m = 0#1 then (pb.read16 2).map (fun f => f.setWidth 64) else pb.read64 8
  | none => none

/-- LFIELD(o, 2), a 16-bit field of the leader payload (R82). -/
def pbLeader16 (pb : Memory) (o : Nat) : Option Half :=
  match pbMode pb with
  | some m => pb.read16 (dataOffset m + o)
  | none => none

/-- LFIELD(o, 4), a 32-bit field of the leader payload (R82). -/
def pbLeader32 (pb : Memory) (o : Nat) : Option Word :=
  match pbMode pb with
  | some m => pb.read32 (dataOffset m + o)
  | none => none

/-- The leader's tick count, LFIELD(4, 4) : LFIELD(8, 4) (42_leader_timestamp.md R119). -/
def pbTicks (pb : Memory) : Option DWord :=
  match pbLeader32 pb 4, pbLeader32 pb 8 with
  | some h, some l => some (h ++ l)
  | _, _ => none

/-! ## The packer (R83) -/

/-- PACK_PINFO(ct, pid), always with MODE = 0 (R83). -/
def packPinfo (ct : BitVec 7) (pid : BitVec 24) : Word := (ct.setWidth 32 <<< 24) ||| pid.setWidth 32

/-- PACK_CLASS(s, m, ct) (R83). -/
def packClass (st : Half) (m : BitVec 1) (ct : BitVec 7) : Word :=
  (ct.setWidth 32 <<< 24) ||| ((st.extractLsb' 15 1).setWidth 32 <<< 17) ||| (m.setWidth 32 <<< 16)
    ||| st.setWidth 32

/-! ## Maps on values -/

/-- is_error: bit 15 of a status (40_classify.md R104). -/
def isErrorStatus (st : Half) : BitVec 1 := st.extractLsb' 15 1

/-- The known payload types: 0x0001 to 0x0009 and 0x4001 (30_encoding.md R81). -/
def payloadKnown (p : Half) : Bool := (1 ≤ p.toNat && p.toNat ≤ 9) || p.toNat == 0x4001

/-- KIND(p) (30_encoding.md R95). -/
def bufferKind (p : Half) : Word := if payloadKnown p then p.setWidth 32 else kindUnknown

/-- TS_TO_NS(t, f) in unsigned 64-bit arithmetic, each product and sum mod 2^64 (42_leader_timestamp.md R120). -/
def tsToNs (t f : DWord) : DWord :=
  if f = 0#64 then 0#64 else (t / f) * 1000000000#64 + (t % f * 1000000000#64) / f

/-- Two bytes reversed (44_byteorder_ops.md R132). -/
def swap16 (v : Half) : Half := v.extractLsb' 0 8 ++ v.extractLsb' 8 8

/-- Four bytes reversed (R133). -/
def swap32 (v : Word) : Word :=
  v.extractLsb' 0 8 ++ v.extractLsb' 8 8 ++ v.extractLsb' 16 8 ++ v.extractLsb' 24 8

/-- Eight bytes reversed, as one quantity (R134). -/
def swap64 (v : DWord) : DWord :=
  v.extractLsb' 0 8 ++ v.extractLsb' 8 8 ++ v.extractLsb' 16 8 ++ v.extractLsb' 24 8
    ++ v.extractLsb' 32 8 ++ v.extractLsb' 40 8 ++ v.extractLsb' 48 8 ++ v.extractLsb' 56 8

/-- ARG[15:0], the operand of the 16-bit value commands (30_encoding.md R88). -/
def State.arg16 (s : State) : Half := s.argLo.extractLsb' 0 16

end Sys2Proof.Machine
end

