-- ==== Sys2Proof/Machine/ByteOrder.lean ====
section
/-! DEFINITION. The byte-order converter commands (44_byteorder_ops.md). -/

namespace Sys2Proof.Machine

/-- BSWAP16 (R132), on ARG[15:0]. -/
def execBswap16 (s : State) : Host.Outcome State Fault Refusal :=
  .next (s.answer ((swap16 s.arg16).setWidth 64))

/-- BSWAP32 (R133), on ARG[31:0]. -/
def execBswap32 (s : State) : Host.Outcome State Fault Refusal :=
  .next (s.answer ((swap32 s.argLo).setWidth 64))

/-- BSWAP64 (R134). -/
def execBswap64 (s : State) : Host.Outcome State Fault Refusal :=
  .next (s.answer (swap64 s.arg))

end Sys2Proof.Machine
end

