-- ==== Sys2Proof/Machine/Classify.lean ====
section
/-! DEFINITION. NOP, the classifier and the status commands (40_classify.md). -/

namespace Sys2Proof.Machine

/-- NOP (R100): `finish`. -/
def execNop (s : State) : Host.Outcome State Fault Refusal := .next s.finish

/-- CLASSIFY (R101): PACK_CLASS of the packet's status, mode and content type. -/
def execClassify (s : State) : Host.Outcome State Fault Refusal :=
  answerRead s <|
    match pbStatus s.pb, pbMode s.pb, pbContentType s.pb with
    | some st, some m, some ct => some ((packClass st m ct).setWidth 64)
    | _, _, _ => none

/-- GET_HEADER_MODE (R102). -/
def execGetHeaderMode (s : State) : Host.Outcome State Fault Refusal :=
  answerRead s ((pbMode s.pb).map (fun m => m.setWidth 64))

/-- GET_PACKET_TYPE (R103). -/
def execGetPacketType (s : State) : Host.Outcome State Fault Refusal :=
  answerRead s ((pbStatus s.pb).map (fun st => st.setWidth 64))

/-- IS_ERROR (R104), on ARG[15:0]. -/
def execIsError (s : State) : Host.Outcome State Fault Refusal :=
  .next (s.answer ((isErrorStatus s.arg16).setWidth 64))

end Sys2Proof.Machine
end

