-- ==== Sys2Proof/Machine/Encoder.lean ====
section
/-! DEFINITION. The packet encoder (43_encoder.md). -/

namespace Sys2Proof.Machine

/-- What ENCODE_HEADER writes: status OK, the compact frame id and the packed PINFO (R126). -/
def writeHeader (s : State) (ct : BitVec 7) : Memory :=
  ((s.pb.write16 0 0x0000#16).write16 2 s.inFrameId).write32 4 (packPinfo ct (s.inPacketId.extractLsb' 0 24))

/-- The shared shape of the builders (R126): too little capacity for the fixed part fails with CAP and writes no PB byte;
otherwise PB becomes `pb` and RESULT the number of bytes written. -/
def encodePacket (s : State) (fixed : Nat) (pb : Memory) (written : Nat) : Host.Outcome State Fault Refusal :=
  if s.encCap.toNat < fixed then .next (s.failWith .cap)
  else .next ((s.setPb pb).answer (BitVec.ofNat 64 written))

/-- PB after the leader builder (R127). -/
def leaderPacket (s : State) : Memory :=
  ((((((((((writeHeader s ctLeader).write16 8 0x0000#16).write16 10 s.params.leaderPtype).write32 12 s.inTsHi).write32
    16 s.inTsLo).write32 20 s.inPixelFormat).write32 24 s.inWidth).write32 28 s.inHeight).write32
    32 s.inXOffset).write32 36 s.inYOffset)

/-- PB after the trailer builder (R128). -/
def trailerPacket (s : State) : Memory :=
  ((writeHeader s ctTrailer).write32 8 s.params.trailerPtype).write32 12 0x00000000#32

/-- n = min(IN_DATA_LEN, ENC_CAP - 8), the bytes the data-block builder copies (R129). -/
def dataBlockLength (s : State) : Nat := min s.inDataLen.toNat (s.encCap.toNat - 8)

/-- PB after the data-block builder: PB[8 + i] is SB[i] for i < n (R129). -/
def dataBlockPacket (s : State) : Memory := (writeHeader s ctDataBlock).copyInto s.sb 8 (dataBlockLength s)

/-- ENC_LEADER (R127). -/
def execEncLeader (s : State) : Host.Outcome State Fault Refusal := encodePacket s 40 (leaderPacket s) 40

/-- ENC_TRAILER (R128). -/
def execEncTrailer (s : State) : Host.Outcome State Fault Refusal := encodePacket s 16 (trailerPacket s) 16

/-- ENC_DATA_BLOCK (R129). -/
def execEncDataBlock (s : State) : Host.Outcome State Fault Refusal :=
  encodePacket s 8 (dataBlockPacket s) (8 + dataBlockLength s)

end Sys2Proof.Machine
end

