-- ==== Sys2Proof/Machine/HeaderFields.lean ====
section
/-! DEFINITION. The header field accessors (41_header_fields.md). -/

namespace Sys2Proof.Machine

/-- GET_CONTENT_TYPE (R106). -/
def execGetContentType (s : State) : Host.Outcome State Fault Refusal :=
  answerRead s ((pbContentType s.pb).map (fun ct => ct.setWidth 64))

/-- GET_PACKET_ID (R107). -/
def execGetPacketId (s : State) : Host.Outcome State Fault Refusal :=
  answerRead s ((pbPacketId s.pb).map (fun p => p.setWidth 64))

/-- GET_FRAME_ID (R108). -/
def execGetFrameId (s : State) : Host.Outcome State Fault Refusal :=
  answerRead s (pbFrameId s.pb)

/-- GET_DATA_OFFSET (R109). -/
def execGetDataOffset (s : State) : Host.Outcome State Fault Refusal :=
  answerRead s ((pbMode s.pb).map (fun m => BitVec.ofNat 64 (dataOffset m)))

/-- GET_DATA_SIZE (R110): PB[4] is read only when PKT_LEN >= 8. -/
def execGetDataSize (s : State) : Host.Outcome State Fault Refusal :=
  if s.pktLen.toNat < 8 then .next (s.failWith .size)
  else
    match pbMode s.pb with
    | some m =>
      if s.pktLen.toNat < dataOffset m then .next (s.failWith .size)
      else .next (s.answer (BitVec.ofNat 64 (s.pktLen.toNat - dataOffset m)))
    | none => .fault .unwrittenRead

end Sys2Proof.Machine
end

