-- ==== Sys2Proof/Machine/Leader.lean ====
section
/-! DEFINITION. The leader accessors, the timestamp scaler and the buffer-kind map (42_leader_timestamp.md). No command
here checks the content type or PKT_LEN (R112). -/

namespace Sys2Proof.Machine

/-- A 32-bit leader field at offset `o` of the payload becomes RESULT (R114-R118). -/
def answerLeader32 (s : State) (o : Nat) : Host.Outcome State Fault Refusal :=
  answerRead s ((pbLeader32 s.pb o).map (fun v => v.setWidth 64))

/-- GET_PAYLOAD_TYPE (R113). -/
def execGetPayloadType (s : State) : Host.Outcome State Fault Refusal :=
  answerRead s ((pbLeader16 s.pb 2).map (fun v => v.setWidth 64))

/-- GET_PIXEL_FORMAT (R114). -/
def execGetPixelFormat (s : State) : Host.Outcome State Fault Refusal := answerLeader32 s 12

/-- GET_WIDTH (R115). -/
def execGetWidth (s : State) : Host.Outcome State Fault Refusal := answerLeader32 s 16

/-- GET_HEIGHT (R116). -/
def execGetHeight (s : State) : Host.Outcome State Fault Refusal := answerLeader32 s 20

/-- GET_X_OFFSET (R117). -/
def execGetXOffset (s : State) : Host.Outcome State Fault Refusal := answerLeader32 s 24

/-- GET_Y_OFFSET (R118). -/
def execGetYOffset (s : State) : Host.Outcome State Fault Refusal := answerLeader32 s 28

/-- GET_TS_TICKS (R119). -/
def execGetTsTicks (s : State) : Host.Outcome State Fault Refusal := answerRead s (pbTicks s.pb)

/-- GET_TS_NS (R121): the PB bytes count as read whatever TICK_FREQ holds. -/
def execGetTsNs (s : State) : Host.Outcome State Fault Refusal :=
  answerRead s ((pbTicks s.pb).map (fun t => tsToNs t s.tickFreq))

/-- GET_BUFFER_KIND (R124). -/
def execGetBufferKind (s : State) : Host.Outcome State Fault Refusal :=
  answerRead s ((pbLeader16 s.pb 2).map (fun p => (bufferKind p).setWidth 64))

/-- MAP_BUFFER_KIND (R125), on ARG[15:0]. -/
def execMapBufferKind (s : State) : Host.Outcome State Fault Refusal :=
  .next (s.answer ((bufferKind s.arg16).setWidth 64))

/-- SCALE_TS (R122). -/
def execScaleTs (s : State) : Host.Outcome State Fault Refusal :=
  .next (s.answer (tsToNs s.arg s.tickFreq))

end Sys2Proof.Machine
end

