-- ==== Sys2Proof/Machine/Dispatch.lean ====
section
/-! DEFINITION. The meaning of each command: one arm per constructor of Instr (40_classify.md R99). -/

namespace Sys2Proof.Machine

def exec (i : Instr) (s : State) : Host.Outcome State Fault Refusal :=
  match i with
  | .nop => Sys2Proof.Machine.execNop s
  | .classify => Sys2Proof.Machine.execClassify s
  | .getHeaderMode => Sys2Proof.Machine.execGetHeaderMode s
  | .getPacketType => Sys2Proof.Machine.execGetPacketType s
  | .isError => Sys2Proof.Machine.execIsError s
  | .getContentType => Sys2Proof.Machine.execGetContentType s
  | .getPacketId => Sys2Proof.Machine.execGetPacketId s
  | .getFrameId => Sys2Proof.Machine.execGetFrameId s
  | .getDataOffset => Sys2Proof.Machine.execGetDataOffset s
  | .getDataSize => Sys2Proof.Machine.execGetDataSize s
  | .getPayloadType => Sys2Proof.Machine.execGetPayloadType s
  | .getPixelFormat => Sys2Proof.Machine.execGetPixelFormat s
  | .getWidth => Sys2Proof.Machine.execGetWidth s
  | .getHeight => Sys2Proof.Machine.execGetHeight s
  | .getXOffset => Sys2Proof.Machine.execGetXOffset s
  | .getYOffset => Sys2Proof.Machine.execGetYOffset s
  | .getTsTicks => Sys2Proof.Machine.execGetTsTicks s
  | .getTsNs => Sys2Proof.Machine.execGetTsNs s
  | .getBufferKind => Sys2Proof.Machine.execGetBufferKind s
  | .mapBufferKind => Sys2Proof.Machine.execMapBufferKind s
  | .scaleTs => Sys2Proof.Machine.execScaleTs s
  | .encLeader => Sys2Proof.Machine.execEncLeader s
  | .encTrailer => Sys2Proof.Machine.execEncTrailer s
  | .encDataBlock => Sys2Proof.Machine.execEncDataBlock s
  | .bswap16 => Sys2Proof.Machine.execBswap16 s
  | .bswap32 => Sys2Proof.Machine.execBswap32 s
  | .bswap64 => Sys2Proof.Machine.execBswap64 s

end Sys2Proof.Machine
end

