-- ==== Sys2Proof/Machine/Registers.lean ====
section
/-! DEFINITION. The register map (10_state.md R18-R41): the one operation that reads a register and the one that writes
one, for the host. -/

namespace Sys2Proof.Machine

/-- The registers by name, and the reserved offsets (10_state.md, register map; R41). -/
inductive Reg where
  | id | version | pbSizeReg | sbSizeReg | cmd | status | pktLen | encCap
  | tickFreqLo | tickFreqHi | argLo | argHi | resultLo | resultHi
  | inFrameId | inPacketId | inTsLo | inTsHi | inPixelFormat | inWidth | inHeight | inXOffset | inYOffset | inDataLen
  | reserved
  deriving DecidableEq, Repr

/-- The register at an offset of the register region (10_state.md, register map). -/
def regAt (off : Nat) : Reg :=
  match off with
  | 0x000 => .id
  | 0x004 => .version
  | 0x008 => .pbSizeReg
  | 0x00C => .sbSizeReg
  | 0x010 => .cmd
  | 0x014 => .status
  | 0x018 => .pktLen
  | 0x01C => .encCap
  | 0x020 => .tickFreqLo
  | 0x024 => .tickFreqHi
  | 0x028 => .argLo
  | 0x02C => .argHi
  | 0x030 => .resultLo
  | 0x034 => .resultHi
  | 0x040 => .inFrameId
  | 0x044 => .inPacketId
  | 0x048 => .inTsLo
  | 0x04C => .inTsHi
  | 0x050 => .inPixelFormat
  | 0x054 => .inWidth
  | 0x058 => .inHeight
  | 0x05C => .inXOffset
  | 0x060 => .inYOffset
  | 0x064 => .inDataLen
  | _ => .reserved

/-- What a host read of a register returns. ID, VERSION, PB_SIZE_REG and SB_SIZE_REG are hardwired (R19-R22), CMD reads
0 (R23), reserved offsets read 0 (R41). -/
def regRead (s : State) : Reg → Word
  | .id => idConstant
  | .version => versionConstant
  | .pbSizeReg => BitVec.ofNat 32 s.params.pbSize
  | .sbSizeReg => BitVec.ofNat 32 s.params.sbSize
  | .cmd => 0#32
  | .status => s.status
  | .pktLen => s.pktLen
  | .encCap => s.encCap
  | .tickFreqLo => s.tickFreqLo
  | .tickFreqHi => s.tickFreqHi
  | .argLo => s.argLo
  | .argHi => s.argHi
  | .resultLo => s.resultLo
  | .resultHi => s.resultHi
  | .inFrameId => s.inFrameId.setWidth 32
  | .inPacketId => s.inPacketId
  | .inTsLo => s.inTsLo
  | .inTsHi => s.inTsHi
  | .inPixelFormat => s.inPixelFormat
  | .inWidth => s.inWidth
  | .inHeight => s.inHeight
  | .inXOffset => s.inXOffset
  | .inYOffset => s.inYOffset
  | .inDataLen => s.inDataLen
  | .reserved => 0#32

/-- The WARL rule of PKT_LEN and ENC_CAP: min(v, PB_SIZE) (10_state.md R27, R28). -/
def clampToPb (s : State) (v : Word) : Word := BitVec.ofNat 32 (min v.toNat s.params.pbSize)

/-- What a host write stores in a register. Writes to read-only registers and reserved offsets are ignored without error
(register map; R41). CMD holds no value (R23): issuing its command is the port's. -/
def regWrite (s : State) (r : Reg) (v : Word) : State :=
  match r with
  | .id => s
  | .version => s
  | .pbSizeReg => s
  | .sbSizeReg => s
  | .cmd => s
  | .status => { s with status := statusW1c s.status v }
  | .pktLen => { s with pktLen := clampToPb s v }
  | .encCap => { s with encCap := clampToPb s v }
  | .tickFreqLo => { s with tickFreqLo := v }
  | .tickFreqHi => { s with tickFreqHi := v }
  | .argLo => { s with argLo := v }
  | .argHi => { s with argHi := v }
  | .resultLo => s
  | .resultHi => s
  | .inFrameId => { s with inFrameId := v.extractLsb' 0 16 }
  | .inPacketId => { s with inPacketId := v }
  | .inTsLo => { s with inTsLo := v }
  | .inTsHi => { s with inTsHi := v }
  | .inPixelFormat => { s with inPixelFormat := v }
  | .inWidth => { s with inWidth := v }
  | .inHeight => { s with inHeight := v }
  | .inXOffset => { s with inXOffset := v }
  | .inYOffset => { s with inYOffset := v }
  | .inDataLen => { s with inDataLen := v }
  | .reserved => s

end Sys2Proof.Machine
end

