-- ==== Sys2Proof/Machine/Port.lean ====
section
/-! DEFINITION. The host port (20_memory.md R49-R60), command issue (40_classify.md R99) and the reset input
(70_reset_and_hazards.md R156): what one step does with the oldest thing the host has issued. -/

namespace Sys2Proof.Machine

/-- The width in bytes (20_memory.md R49). -/
def Width.bytes : Width → Nat
  | .byte => 1
  | .half => 2
  | .word => 4

/-- The target of an access the port accepts (R50). -/
inductive Access where
  | register (off : Nat)
  | pb (k : Nat)
  | sb (k : Nat)
  deriving DecidableEq, Repr

/-- Address decode: the target of a transaction, none where the port refuses it (20_memory.md R50, R52). -/
def decodeAccess (p : Params) (a : PortAddr) (w : Width) : Option Access :=
  if a.toNat < 0x10000 then
    if w = .word ∧ a.toNat % 4 = 0 then some (.register a.toNat) else none
  else if a.toNat < 0x20000 then
    if a.toNat % w.bytes = 0 ∧ a.toNat - 0x10000 + w.bytes ≤ p.pbSize then some (.pb (a.toNat - 0x10000)) else none
  else if a.toNat < 0x30000 then
    if a.toNat % w.bytes = 0 ∧ a.toNat - 0x20000 + w.bytes ≤ p.sbSize then some (.sb (a.toNat - 0x20000)) else none
  else none

/-- A window read: lane i carries byte k+i, lanes past the width read 0 (20_memory.md R51). None where a byte is
unwritten (R67). -/
def laneRead (m : Memory) (k : Nat) (w : Width) : Option Word :=
  match w with
  | .byte => (m.read k).map (fun b => b.setWidth 32)
  | .half =>
    match m.read k, m.read (k + 1) with
    | some b0, some b1 => some ((b1 ++ b0).setWidth 32)
    | _, _ => none
  | .word =>
    match m.read k, m.read (k + 1), m.read (k + 2), m.read (k + 3) with
    | some b0, some b1, some b2, some b3 => some (b3 ++ b2 ++ b1 ++ b0)
    | _, _, _, _ => none

/-- A window write: byte k+i is lane i of the data word, lanes past the width are ignored (R51). -/
def laneWrite (m : Memory) (k : Nat) (w : Width) (v : Word) : Memory :=
  match w with
  | .byte => m.set k (v.extractLsb' 0 8)
  | .half => (m.set k (v.extractLsb' 0 8)).set (k + 1) (v.extractLsb' 8 8)
  | .word =>
    (((m.set k (v.extractLsb' 0 8)).set (k + 1) (v.extractLsb' 8 8)).set (k + 2) (v.extractLsb' 16 8)).set
      (k + 3) (v.extractLsb' 24 8)

/-- Issue of a command word (40_classify.md R99): an illegal word is refused by R105, a legal one runs its rule. -/
def issueCommand (s : State) (w : Word) : Host.Outcome State Fault Refusal :=
  match decode w with
  | .ok i => exec i s
  | .error _ => .next s.illegalCommand

/-- The end of a window read: the data word, or the model fault where a byte is unwritten (R67). -/
def answerWindow (s : State) (v : Option Word) : Host.Outcome State Fault Refusal :=
  match v with
  | some d => .next (s.respond (.readDone .okay d))
  | none => .fault .unwrittenRead

/-- BusRead(a, w) (20_memory.md R49-R52). A refused read returns 0 and sets E_BUS. -/
def busRead (s : State) (a : PortAddr) (w : Width) : Host.Outcome State Fault Refusal :=
  match decodeAccess s.params a w with
  | some (.register off) => .next (s.respond (.readDone .okay (regRead s (regAt off))))
  | some (.pb k) => answerWindow s (laneRead s.pb k w)
  | some (.sb k) => answerWindow s (laneRead s.sb k w)
  | none => .next (s.busErr.respond (.readDone .error 0#32))

/-- A host write of a register: a write to CMD issues a command, every other stores (20_memory.md R60). -/
def writeRegister (s : State) (r : Reg) (v : Word) : Host.Outcome State Fault Refusal :=
  match r with
  | .cmd => issueCommand s v
  | r => .next (regWrite s r v)

/-- BusWrite(a, w, v) (20_memory.md R49-R52). A refused write changes nothing but E_BUS. -/
def busWrite (s : State) (a : PortAddr) (w : Width) (v : Word) : Host.Outcome State Fault Refusal :=
  match decodeAccess s.params a w with
  | some (.register off) =>
    mapNext (writeRegister s (regAt off) v) (fun t => t.respond (.writeDone .okay))
  | some (.pb k) => .next ((s.setPb (laneWrite s.pb k w v)).respond (.writeDone .okay))
  | some (.sb k) => .next ({ s with sb := laneWrite s.sb k w v }.respond (.writeDone .okay))
  | none => .next (s.busErr.respond (.writeDone .error))

/-- One transaction, from issue to response, as one atomic step (20_memory.md R58, R59). -/
def transact (s : State) (t : Txn) : Host.Outcome State Fault Refusal :=
  match t with
  | .read a w => busRead s a w
  | .write a w v => busWrite s a w v

/-- While reset is asserted the port accepts no transaction (70_reset_and_hazards.md R156): those issued meanwhile wait,
in order, for the release. None where no release is to come. -/
def afterRelease : List HostEvent → Option (List HostEvent)
  | [] => none
  | .releaseReset :: r => some r
  | .assertReset :: r => afterRelease r
  | .bus t :: r => (afterRelease r).map (fun q => .bus t :: q)

/-- What one step does with the oldest thing the host has issued. With nothing issued the PCE is idle, and idling
changes no state (60_exceptions.md R154). -/
def advance (s : State) : Host.Outcome State Fault Refusal :=
  match s.pending with
  | [] => .next s
  | .assertReset :: rest => .next { s.hardReset with pending := rest }
  | .releaseReset :: rest => .next { s with resetAsserted := false, pending := rest }
  | .bus t :: rest =>
    if s.resetAsserted then
      match afterRelease rest with
      | some q => .next { s with resetAsserted := false, pending := .bus t :: q }
      | none => .next s
    else transact { s with pending := rest } t

end Sys2Proof.Machine
end

