-- ==== Sys2Proof/Machine/Step.lean ====
section
/-! DEFINITION. The step of the machine: it takes the oldest thing the host has issued. -/

namespace Sys2Proof.Machine

/-- One step: one host transaction with the whole command it may issue, or one change of the reset input (20_memory.md
R58; 70_reset_and_hazards.md R156). -/
def step (s : State) : Host.Outcome State Fault Refusal := advance s

/-- `s` with the command word `w` as the next thing the host issues: a 32-bit write of it to CMD, ahead of whatever is
pending, and the reset input released so that the port accepts it (log 1). -/
def State.withFetchWord (s : State) (_nbits w : Nat) : State :=
  { s with
    resetAsserted := false
    pending := .bus (.write 0x00010#18 .word (BitVec.ofNat 32 w)) :: s.pending }

end Sys2Proof.Machine
end

