-- ==== Sys2Proof/Machine/HostNotation.lean ====
section
/-! DEFINITION. The host-program notation (30_encoding.md R96-R98): a program is its list of transactions, which the
port takes in order (R98). -/

namespace Sys2Proof.Machine

/-- `PB+k` (R96). -/
def pbAddr (k : Nat) : PortAddr := BitVec.ofNat 18 (0x10000 + k)

/-- `SB+k` (R96). -/
def sbAddr (k : Nat) : PortAddr := BitVec.ofNat 18 (0x20000 + k)

/-- `wr32 A, V` (R96). -/
def wr32 (a : PortAddr) (v : Word) : Txn := .write a .word v

/-- `wr16 A, V`: the data word is zext_32(V[15:0]) (R96). -/
def wr16 (a : PortAddr) (v : Word) : Txn := .write a .half ((v.extractLsb' 0 16).setWidth 32)

/-- `wr8 A, V`: the data word is zext_32(V[7:0]) (R96). -/
def wr8 (a : PortAddr) (v : Word) : Txn := .write a .byte ((v.extractLsb' 0 8).setWidth 32)

/-- `rd32 A` (R96). -/
def rd32 (a : PortAddr) : Txn := .read a .word

/-- `rd16 A` (R96). -/
def rd16 (a : PortAddr) : Txn := .read a .half

/-- `rd8 A` (R96). -/
def rd8 (a : PortAddr) : Txn := .read a .byte

/-- `cmd MNEMONIC`: a 32-bit write of the command's word to CMD (R97). -/
def cmd (i : Instr) : Txn := wr32 0x00010#18 (encode i)

/-- `wr64 R_LO, V`, the low register first (R97). -/
def wr64 (a : PortAddr) (v : DWord) : List Txn :=
  [wr32 a (v.extractLsb' 0 32), wr32 (a + 4#18) (v.extractLsb' 32 32)]

/-- `rd64 R_LO`, the low register first (R97). -/
def rd64 (a : PortAddr) : List Txn := [rd32 a, rd32 (a + 4#18)]

/-- `clr`: write 1 to DONE and to every E_* bit (R97). -/
def clr : Txn := wr32 0x00014#18 0x00000F01#32

/-- `ldpb K, b0 b1 ...`: one byte write each, in order (R97). -/
def ldpb (k : Nat) : List Byte → List Txn
  | [] => []
  | b :: r => wr8 (pbAddr k) (b.setWidth 32) :: ldpb (k + 1) r

/-- `ldsb K, b0 b1 ...` (R97). -/
def ldsb (k : Nat) : List Byte → List Txn
  | [] => []
  | b :: r => wr8 (sbAddr k) (b.setWidth 32) :: ldsb (k + 1) r

/-- A host program about to run: its transactions issued after whatever is pending, in program order (R98; log 1). -/
def State.load (s : State) (prog : List Txn) : State :=
  { s with pending := s.pending ++ prog.map HostEvent.bus }

/-- What `rd32 A -> X` (width word), `rd16 A -> X` and `rd8 A -> X` leave in X: the low bytes of the data word that the
access width carries (R96). A write's response leaves nothing. -/
def readValue (w : Width) (r : Response) : Option Word :=
  match r with
  | .readDone _ d =>
    match w with
    | .word => some d
    | .half => some ((d.extractLsb' 0 16).setWidth 32)
    | .byte => some ((d.extractLsb' 0 8).setWidth 32)
  | .writeDone _ => none

/-- What `rd64 R_LO -> X` leaves in X: H : L, from the response to its first read, L, and the response to its second, H
(R97). -/
def readValue64 (l h : Response) : Option DWord :=
  match readValue .word l, readValue .word h with
  | some lo, some hi => some (hi ++ lo)
  | _, _ => none

/-- What `rd64` leaves in X once both its reads are answered: the newest response is H, the one before it L (R97; the
record's order is log 2). -/
def State.lastRead64 (s : State) : Option DWord :=
  match s.responses with
  | h :: l :: _ => readValue64 l h
  | _ => none

end Sys2Proof.Machine
end

