-- ==== Sys2Proof/Safety.lean ====
section
/-! DEFINITION. The terms claims use: the invariant of the machine, and the effects of the rules written as the spec
prints them (masks and bit positions), not with the operations the meanings call. -/

namespace Sys2Proof.Machine

/-! ## The invariant -/

/-- A buffer of `size` bytes: canonical, and no byte beyond its end (10_state.md R43, R44). -/
abbrev Memory.Within (m : Memory) (size : Nat) : Prop := m.wf ∧ ∀ c ∈ m, c.1 < size

/-- STATUS as it can read: reserved bits [7:1], [15:12] and [31:20] are 0, and LAST_ERR is one of its four codes
(10_state.md R24, R26). -/
abbrev StatusLegal (st : Word) : Prop := st &&& 0xFFF0F0FE#32 = 0#32 ∧ (lastErrOf st).toNat ≤ 3

/-- The WARL registers hold legal values (10_state.md R27, R28). -/
abbrev State.WarlLegal (s : State) : Prop := s.pktLen.toNat ≤ s.params.pbSize ∧ s.encCap.toNat ≤ s.params.pbSize

/-- While reset is asserted every register and buffer is as reset leaves it (70_reset_and_hazards.md R156). -/
abbrev State.ResetHeld (s : State) : Prop := s.resetAsserted = true → s = s.hardReset

/-- The invariant of the machine. -/
abbrev State.Inv (s : State) : Prop :=
  s.params.Legal ∧ s.pb.Within s.params.pbSize ∧ s.sb.Within s.params.sbSize ∧ StatusLegal s.status ∧ s.WarlLegal ∧
    s.ResetHeld

/-! ## What claims say of buffers and effects -/

/-- The bytes `bs` stand in the buffer from offset `a` on, all of them written. -/
def Memory.Holds (m : Memory) (a : Nat) (bs : List Byte) : Prop := ∀ j : Nat, ∀ b : Byte, bs[j]? = some b → m.read (a + j) = some b

/-- The byte at offset `a` is unwritten (20_memory.md R67). -/
abbrev Memory.Unwritten (m : Memory) (a : Nat) : Prop := m.read a = none

/-- The bytes of a 16-bit wire field, most significant first (20_memory.md R54). -/
def bytes16 (v : Half) : List Byte := [v.extractLsb' 8 8, v.extractLsb' 0 8]

/-- The bytes of a 32-bit wire field, most significant first (R54). -/
def bytes32 (v : Word) : List Byte :=
  [v.extractLsb' 24 8, v.extractLsb' 16 8, v.extractLsb' 8 8, v.extractLsb' 0 8]

/-- The bytes of a 64-bit wire field, most significant first (R54). -/
def bytes64 (v : DWord) : List Byte := bytes32 (v.extractLsb' 32 32) ++ bytes32 (v.extractLsb' 0 32)

/-- `s` after a command that ends in `finish` with RESULT = v: RESULT_HI : RESULT_LO = v, LAST_ERR = 0, DONE = 1, and
nothing else changed (00_scope.md R9). -/
def finishedWith (s : State) (v : DWord) : State :=
  { s with
    resultLo := BitVec.ofNat 32 (v.toNat % 2 ^ 32)
    resultHi := BitVec.ofNat 32 (v.toNat / 2 ^ 32)
    status := (s.status &&& 0xFFF0FFFF#32) ||| 0x00000001#32 }

/-- `s` after a command that raises an error with RESULT = 0: the STATUS bit `bit` set, LAST_ERR = `code`, DONE = 1, and
nothing else changed (60_exceptions.md R137). -/
def raisedWithZero (s : State) (bit code : Nat) : State :=
  { s with
    resultLo := 0#32
    resultHi := 0#32
    status := (s.status &&& 0xFFF0FFFF#32) ||| BitVec.ofNat 32 (2 ^ bit + code * 2 ^ 16 + 1) }

/-- TS_TO_NS on numbers, in the order of operations of 42_leader_timestamp.md R120. -/
def tsNsSpec (t f : Nat) : Nat :=
  if f = 0 then 0 else (t / f * 1000000000 % 2 ^ 64 + t % f * 1000000000 % 2 ^ 64 / f) % 2 ^ 64

/-- KIND on numbers, from the list of known codes (30_encoding.md R95). -/
def kindSpec (p : Nat) : Nat :=
  if p ∈ [0x0001, 0x0002, 0x0003, 0x0004, 0x0005, 0x0006, 0x0007, 0x0008, 0x0009, 0x4001] then p else 0xFFFFFFFF

/-- Where the payload starts in a packet whose byte 4 is `b4`: 8 in compact mode, 20 in extended mode (R75). -/
def payloadAt (b4 : Byte) : Nat := if b4.toNat < 128 then 8 else 20

/-- The 8 bytes ENCODE_HEADER writes: status OK, frame id, content type under MODE = 0, the low 24 bits of the packet id
(43_encoder.md R126). -/
def headerBytes (s : State) (ct : Byte) : List Byte :=
  [0x00#8, 0x00#8] ++ bytes16 s.inFrameId ++
    [ct, s.inPacketId.extractLsb' 16 8, s.inPacketId.extractLsb' 8 8, s.inPacketId.extractLsb' 0 8]

/-- The port refuses a transaction of width `w` at `a` (20_memory.md R50, R52). -/
def PortRefuses (p : Params) (a : PortAddr) (w : Width) : Prop :=
  (a.toNat < 0x10000 ∧ (w ≠ .word ∨ a.toNat % 4 ≠ 0)) ∨
  (0x10000 ≤ a.toNat ∧ a.toNat < 0x20000 ∧
    (a.toNat % w.bytes ≠ 0 ∨ p.pbSize < a.toNat - 0x10000 + w.bytes)) ∨
  (0x20000 ≤ a.toNat ∧ a.toNat < 0x30000 ∧
    (a.toNat % w.bytes ≠ 0 ∨ p.sbSize < a.toNat - 0x20000 + w.bytes)) ∨
  0x30000 ≤ a.toNat

/-- A command word is illegal: a reserved bit is set, or the opcode lies in a gap of the map (30_encoding.md R89). -/
def WordIllegal (w : Word) : Prop :=
  256 ≤ w.toNat ∨ (0x0A ≤ w.toNat ∧ w.toNat ≤ 0x0F) ∨ (0x1B ≤ w.toNat ∧ w.toNat ≤ 0x1F) ∨
    (0x23 ≤ w.toNat ∧ w.toNat ≤ 0x2F) ∨ (0x33 ≤ w.toNat ∧ w.toNat ≤ 0xFF)

/-- The bytes at the offsets of `compact` or of `extended`, by the mode bit of PB[4]; none while PB[4] is unwritten. -/
def bytesByMode (pb : Memory) (compact extended : List Nat) : List Nat :=
  match pb.read 4 with
  | some b4 => if b4.toNat < 128 then compact else extended
  | none => []

/-- The offsets of the `n` bytes of a leader field at offset `o` of the payload, with PB[4], which gives the payload's
place (42_leader_timestamp.md R112). -/
def leaderBytes (pb : Memory) (o n : Nat) : List Nat :=
  4 :: bytesByMode pb ((List.range n).map (fun j => 8 + o + j)) ((List.range n).map (fun j => 20 + o + j))

/-- The PB bytes the rule of a command names as operands in this state (the "Operands" lines of 40_classify.md to
44_byteorder_ops.md). Which of the mode's bytes they are is open only while PB[4], always among them, is unwritten. -/
def namedBytes (s : State) : Instr → List Nat
  | .nop | .isError | .mapBufferKind | .scaleTs | .bswap16 | .bswap32 | .bswap64 => []
  | .encLeader | .encTrailer | .encDataBlock => []
  | .classify => [0, 1, 4]
  | .getPacketType => [0, 1]
  | .getHeaderMode | .getContentType | .getDataOffset => [4]
  | .getDataSize => if s.pktLen.toNat < 8 then [] else [4]
  | .getPacketId => 4 :: bytesByMode s.pb [5, 6, 7] [16, 17, 18, 19]
  | .getFrameId => 4 :: bytesByMode s.pb [2, 3] [8, 9, 10, 11, 12, 13, 14, 15]
  | .getPayloadType | .getBufferKind => leaderBytes s.pb 2 2
  | .getPixelFormat => leaderBytes s.pb 12 4
  | .getWidth => leaderBytes s.pb 16 4
  | .getHeight => leaderBytes s.pb 20 4
  | .getXOffset => leaderBytes s.pb 24 4
  | .getYOffset => leaderBytes s.pb 28 4
  | .getTsTicks | .getTsNs => leaderBytes s.pb 4 8

/-- A transaction needs a byte that nothing has written: an accepted window read of it, or a CMD write whose command names
it (20_memory.md R67). That a command needs EVERY byte its rule names is the model's reading (log 4). -/
def NeedsUnwritten (s : State) : Txn → Prop
  | .read a w =>
    ¬ PortRefuses s.params a w ∧
      ((0x10000 ≤ a.toNat ∧ a.toNat < 0x20000 ∧ ∃ i < w.bytes, s.pb.Unwritten (a.toNat - 0x10000 + i)) ∨
       (0x20000 ≤ a.toNat ∧ a.toNat < 0x30000 ∧ ∃ i < w.bytes, s.sb.Unwritten (a.toNat - 0x20000 + i)))
  | .write a w v =>
    a = 0x00010#18 ∧ w = .word ∧ ∃ i : Instr, decode v = .ok i ∧ ∃ k ∈ namedBytes s i, s.pb.Unwritten k

/-- The three builders. -/
abbrev encoders : List Instr := [.encLeader, .encTrailer, .encDataBlock]

/-- The address a transaction presents. -/
def Txn.addr : Txn → PortAddr
  | .read a _ => a
  | .write a _ _ => a

/-- The width a transaction presents. -/
def Txn.width : Txn → Width
  | .read _ w => w
  | .write _ w _ => w

/-- Whether a response is the ERROR response. -/
def Response.isError : Response → Bool
  | .readDone .error _ => true
  | .writeDone .error => true
  | _ => false

/-- `s` after its port has taken the oldest pending transaction and answered it with `r`. -/
def answered (s : State) (rest : List HostEvent) (r : Response) : State :=
  { s with pending := rest, responses := r :: s.responses }

/-- The port is about to take transaction `t`: reset is released and `t` is the oldest thing issued. -/
abbrev State.Issues (s : State) (t : Txn) (rest : List HostEvent) : Prop :=
  s.resetAsserted = false ∧ s.pending = .bus t :: rest

/-- The reset value of every register, by offset (10_state.md R42). -/
def resetValues (p : Params) : List (Nat × Word) :=
  [(0x000, 0x47565350#32), (0x004, 0x00010000#32), (0x008, BitVec.ofNat 32 p.pbSize), (0x00C, BitVec.ofNat 32 p.sbSize),
   (0x014, 0#32), (0x018, 0#32), (0x01C, 0#32), (0x020, 0#32), (0x024, 0#32), (0x028, 0#32), (0x02C, 0#32), (0x030, 0#32),
   (0x034, 0#32), (0x040, 0#32), (0x044, 0#32), (0x048, 0#32), (0x04C, 0#32), (0x050, 0#32), (0x054, 0#32), (0x058, 0#32),
   (0x05C, 0#32), (0x060, 0#32), (0x064, 0#32)]

/-- What a 32-bit host write of `v` does to the machine, for every register but STATUS and CMD and the hardwired ones, by
port address (10_state.md section 3, R27-R40). -/
def writeEffects : List (PortAddr × (Word → State → State)) :=
  [(0x00018#18, fun v s =>
      { s with pktLen := if v.toNat ≤ s.params.pbSize then v else BitVec.ofNat 32 s.params.pbSize }),
   (0x0001C#18, fun v s =>
      { s with encCap := if v.toNat ≤ s.params.pbSize then v else BitVec.ofNat 32 s.params.pbSize }),
   (0x00020#18, fun v s => { s with tickFreqLo := v }),
   (0x00024#18, fun v s => { s with tickFreqHi := v }),
   (0x00028#18, fun v s => { s with argLo := v }),
   (0x0002C#18, fun v s => { s with argHi := v }),
   (0x00030#18, fun _ s => s),
   (0x00034#18, fun _ s => s),
   (0x00040#18, fun v s => { s with inFrameId := BitVec.ofNat 16 (v.toNat % 65536) }),
   (0x00044#18, fun v s => { s with inPacketId := v }),
   (0x00048#18, fun v s => { s with inTsLo := v }),
   (0x0004C#18, fun v s => { s with inTsHi := v }),
   (0x00050#18, fun v s => { s with inPixelFormat := v }),
   (0x00054#18, fun v s => { s with inWidth := v }),
   (0x00058#18, fun v s => { s with inHeight := v }),
   (0x0005C#18, fun v s => { s with inXOffset := v }),
   (0x00060#18, fun v s => { s with inYOffset := v }),
   (0x00064#18, fun v s => { s with inDataLen := v })]

/-- What a 32-bit host read answers, for every register that is not hardwired, by port address (10_state.md section 3,
R23-R40). -/
def readAnswers : List (PortAddr × (State → Word)) :=
  [(0x00010#18, fun _ => 0#32),
   (0x00014#18, fun s => s.status),
   (0x00018#18, fun s => s.pktLen),
   (0x0001C#18, fun s => s.encCap),
   (0x00020#18, fun s => s.tickFreqLo),
   (0x00024#18, fun s => s.tickFreqHi),
   (0x00028#18, fun s => s.argLo),
   (0x0002C#18, fun s => s.argHi),
   (0x00030#18, fun s => s.resultLo),
   (0x00034#18, fun s => s.resultHi),
   (0x00040#18, fun s => BitVec.ofNat 32 s.inFrameId.toNat),
   (0x00044#18, fun s => s.inPacketId),
   (0x00048#18, fun s => s.inTsLo),
   (0x0004C#18, fun s => s.inTsHi),
   (0x00050#18, fun s => s.inPixelFormat),
   (0x00054#18, fun s => s.inWidth),
   (0x00058#18, fun s => s.inHeight),
   (0x0005C#18, fun s => s.inXOffset),
   (0x00060#18, fun s => s.inYOffset),
   (0x00064#18, fun s => s.inDataLen)]

end Sys2Proof.Machine
end

