-- ==== Sys2Proof/Certificates/Slice0/Obligations.lean ====
section
/-! DEFINITION. The statements for the provers. Each names the rule of spec/ it formalises; one that is the spec's own
inference ([derived: ...]) or rests on a choice of the model says so. -/

open Sys2Proof Sys2Proof.Machine

/-! ## Reset -/

/-- 10_state.md R42: the reset value of every register, and PB and SB without contents, for every choice of the
parameters; `State.reset` is the case of the defaults of 00_scope.md R5. -/
def Obligations.ResetLeavesTheStatedValues : Prop :=
  ∀ p : Params,
    (∀ (off : Nat) (v : Word),
      (off, v) ∈ resetValues p →
        regRead (State.resetWith p) (regAt off) = v) ∧
    (∀ k : Nat, (State.resetWith p).pb.Unwritten k ∧ (State.resetWith p).sb.Unwritten k) ∧
    (p = { pbSize := 9216, sbSize := 9216, leaderPtype := 0x0001#16, trailerPtype := 0x00000001#32 } →
      State.reset = State.resetWith p)

/-- 70_reset_and_hazards.md section 1: asserting the reset input resets every register and buffer, and while it is asserted
the port takes no transaction. The model's choice (log 5, unsafe: a chip may drop it or answer ERROR) is the rest: a
transaction issued under reset is held, in order, until a release standing later in the queue; without one the step changes
nothing; and what is issued and what was answered outlive a reset. -/
def Obligations.AssertedResetClearsAndHoldsThePort : Prop :=
  (∀ (s : State) (rest : List HostEvent), s.pending = .assertReset :: rest →
    step s = .next { State.resetWith s.params with
      resetAsserted := true, pending := rest, responses := s.responses }) ∧
  (∀ (s : State) (t : Txn) (rest : List HostEvent), s.resetAsserted = true → s.pending = .bus t :: rest →
    (HostEvent.releaseReset ∉ rest → step s = .next s) ∧
    (∀ (ts : List Txn) (later : List HostEvent), rest = ts.map HostEvent.bus ++ .releaseReset :: later →
      step s = .next { s with resetAsserted := false, pending := .bus t :: (ts.map HostEvent.bus ++ later) })) ∧
  (∀ (s : State) (rest : List HostEvent), s.pending = .releaseReset :: rest →
    step s = .next { s with resetAsserted := false, pending := rest })

/-- What the reset values mean for a program (70_reset_and_hazards.md section 1, the spec's own inference R159): the
scaler answers 0, GET_DATA_SIZE raises SIZE and every encoder raises CAP. -/
def Obligations.FreshMachineScalesToZeroAndFailsSizeAndCap : Prop :=
  ∀ p : Params,
    exec .scaleTs (State.resetWith p) = .next (finishedWith (State.resetWith p) 0#64) ∧
    exec .getDataSize (State.resetWith p) = .next (raisedWithZero (State.resetWith p) 9 2) ∧
    ∀ i ∈ encoders, exec i (State.resetWith p) = .next (raisedWithZero (State.resetWith p) 10 3)

/-! ## Registers and the port -/

/-- 10_state.md R19-R22: ID, VERSION, PB_SIZE_REG and SB_SIZE_REG read as constants in every state, and a write to one
is ignored without error. -/
def Obligations.HardwiredRegistersReadTheirConstants : Prop :=
  ∀ (s : State) (rest : List HostEvent) (a : PortAddr) (v : Word),
    (a, v) ∈
      [(0x00000#18, 0x47565350#32), (0x00004#18, 0x00010000#32), (0x00008#18, BitVec.ofNat 32 s.params.pbSize),
        (0x0000C#18, BitVec.ofNat 32 s.params.sbSize)] →
    (s.Issues (.read a .word) rest → step s = .next (answered s rest (.readDone .okay v))) ∧
    (∀ x : Word, s.Issues (.write a .word x) rest → step s = .next (answered s rest (.writeDone .okay)))

/-- 10_state.md section 3: what a host write stores in each register but STATUS and CMD, and that it changes nothing
else. RESULT is read-only, PKT_LEN and ENC_CAP are clamped to PB_SIZE, IN_FRAME_ID keeps its low 16 bits. -/
def Obligations.RegisterWritesStore : Prop :=
  ∀ (a : PortAddr) (upd : Word → State → State),
    (a, upd) ∈ writeEffects →
    ∀ (s : State) (rest : List HostEvent) (v : Word), s.Issues (.write a .word v) rest →
      step s = .next (upd v (answered s rest (.writeDone .okay)))

/-- 10_state.md section 3: what a host read of each register returns, and that it changes nothing. CMD reads 0. -/
def Obligations.RegisterReadsReturnTheRegister : Prop :=
  ∀ (a : PortAddr) (get : State → Word),
    (a, get) ∈ readAnswers →
    ∀ (s : State) (rest : List HostEvent), s.Issues (.read a .word) rest →
      step s = .next (answered s rest (.readDone .okay (get s)))

/-- 10_state.md R25: a write to STATUS clears DONE [0] and the E_* bits [11:8] where the written bit is 1, and changes
no other bit of the machine. -/
def Obligations.StatusWriteOneClears : Prop :=
  ∀ (s : State) (rest : List HostEvent) (w : Word), s.Issues (.write 0x00014#18 .word w) rest →
    ∃ st : Word, step s = .next { answered s rest (.writeDone .okay) with status := st } ∧
      ∀ j < 32, st.getLsbD j =
        if j = 0 ∨ (8 ≤ j ∧ j ≤ 11) then (s.status.getLsbD j && !w.getLsbD j) else s.status.getLsbD j

/-- 10_state.md R41: reserved offsets read 0, ignore writes and raise no bus error. -/
def Obligations.ReservedOffsetsReadZeroIgnoreWrites : Prop :=
  ∀ (s : State) (rest : List HostEvent) (a : PortAddr), a.toNat < 0x10000 → a.toNat % 4 = 0 →
    (a.toNat = 0x038 ∨ a.toNat = 0x03C ∨ 0x068 ≤ a.toNat) →
    (s.Issues (.read a .word) rest → step s = .next (answered s rest (.readDone .okay 0#32))) ∧
    (∀ v : Word, s.Issues (.write a .word v) rest → step s = .next (answered s rest (.writeDone .okay)))

/-- 10_state.md R27: PKT_LEN is clamped on a write, reads back, is 0 at reset, and no command but GET_DATA_SIZE depends
on it. -/
def Obligations.PktLenIsClampedAndReadByDataSizeAlone : Prop :=
  (∀ (s : State) (rest : List HostEvent) (v : Word), s.params.Legal → s.Issues (.write 0x00018#18 .word v) rest →
    ∃ x : Word, x.toNat = min v.toNat s.params.pbSize ∧
      step s = .next { answered s rest (.writeDone .okay) with pktLen := x }) ∧
  (∀ (s : State) (rest : List HostEvent), s.Issues (.read 0x00018#18 .word) rest →
    step s = .next (answered s rest (.readDone .okay s.pktLen))) ∧
  (∀ p : Params, (State.resetWith p).pktLen = 0#32) ∧
  (∀ (i : Instr) (s : State) (v : Word), i ≠ .getDataSize →
    exec i { s with pktLen := v } = mapNext (exec i s) (fun t => { t with pktLen := v })) ∧
  (∃ (s : State) (v : Word), exec .getDataSize { s with pktLen := v } ≠
    mapNext (exec .getDataSize s) (fun t => { t with pktLen := v }))

/-- 20_memory.md R52: a refused transaction gets the ERROR response, a refused read returns 0, E_BUS is set, and nothing
else changes: no command is issued, LAST_ERR and DONE stay. -/
def Obligations.RefusedTransactionsOnlySetBusError : Prop :=
  ∀ (s : State) (rest : List HostEvent) (a : PortAddr) (w : Width), PortRefuses s.params a w →
    (s.Issues (.read a w) rest →
      step s = .next { answered s rest (.readDone .error 0#32) with status := s.status ||| 0x00000800#32 }) ∧
    (∀ v : Word, s.Issues (.write a w v) rest →
      step s = .next { answered s rest (.writeDone .error) with status := s.status ||| 0x00000800#32 })

/-- 20_memory.md sections 1 and 8 and 60_exceptions.md section 5: a transaction the port takes that needs no unwritten byte
completes, with the ERROR response exactly where the port refuses it; one that needs an unwritten byte is the model fault.
That a command needs every byte its rule names is the model's deduction (log 4). -/
def Obligations.EveryTransactionCompletes : Prop :=
  ∀ (s : State) (t : Txn) (rest : List HostEvent), s.Issues t rest →
    (¬ NeedsUnwritten s t →
      ∃ (u : State) (r : Response), step s = .next u ∧ u.pending = rest ∧ u.responses = r :: s.responses ∧
        (r.isError = true ↔ PortRefuses s.params t.addr t.width)) ∧
    (NeedsUnwritten s t → step s = .fault .unwrittenRead)

/-- 20_memory.md section 1 (byte lanes): a window write of width w at offset k puts lane i of the data word in buffer
byte k+i, leaves every other byte as it was, and changes nothing else. -/
def Obligations.WindowWritesPutLanes : Prop :=
  ∀ (s : State) (rest : List HostEvent) (k : Nat) (w : Width) (v : Word), s.params.Legal → k % w.bytes = 0 →
    (k + w.bytes ≤ s.params.pbSize → s.Issues (.write (BitVec.ofNat 18 (0x10000 + k)) w v) rest →
      ∃ m : Memory, step s = .next { answered s rest (.writeDone .okay) with pb := m } ∧
        (∀ i < w.bytes, m.read (k + i) = some (v.extractLsb' (8 * i) 8)) ∧
        (∀ j : Nat, j < k ∨ k + w.bytes ≤ j → m.read j = s.pb.read j)) ∧
    (k + w.bytes ≤ s.params.sbSize → s.Issues (.write (BitVec.ofNat 18 (0x20000 + k)) w v) rest →
      ∃ m : Memory, step s = .next { answered s rest (.writeDone .okay) with sb := m } ∧
        (∀ i < w.bytes, m.read (k + i) = some (v.extractLsb' (8 * i) 8)) ∧
        (∀ j : Nat, j < k ∨ k + w.bytes ≤ j → m.read j = s.sb.read j))

/-- 20_memory.md section 1 (byte lanes) and section 8: a window read of written bytes returns byte k+i in lane i and 0 in
the lanes past the width, and changes nothing; one that meets an unwritten byte is the model fault. -/
def Obligations.WindowReadsReturnLanes : Prop :=
  ∀ (s : State) (rest : List HostEvent) (k : Nat) (w : Width) (buf : Memory) (base : Nat), s.params.Legal →
    k % w.bytes = 0 →
    ((buf = s.pb ∧ base = 0x10000 ∧ k + w.bytes ≤ s.params.pbSize) ∨
      (buf = s.sb ∧ base = 0x20000 ∧ k + w.bytes ≤ s.params.sbSize)) →
    s.Issues (.read (BitVec.ofNat 18 (base + k)) w) rest →
    (∀ bs : List Byte, bs.length = w.bytes → buf.Holds k bs →
      ∃ d : Word, step s = .next (answered s rest (.readDone .okay d)) ∧
        ∀ i < 4, d.extractLsb' (8 * i) 8 = bs.getD i 0#8) ∧
    ((∃ i < w.bytes, buf.Unwritten (k + i)) → step s = .fault .unwrittenRead)

/-- 30_encoding.md Part C, the pairs of `wr64` and `rd64`: `rd64` of a pair just written with `wr64` leaves X = H : L, the
value written; `rd64 RESULT_LO` leaves RESULT. The two responses stand newest first (log 2, the model's choice). -/
def Obligations.PairReadFormsHighAndLow : Prop :=
  (∀ (a : PortAddr) (s : State) (v : DWord), a ∈ [0x00020#18, 0x00028#18, 0x00048#18] →
    s.resetAsserted = false → s.pending = [] →
    ∃ t1 t2 t3 t4 : State, step (s.load (wr64 a v ++ rd64 a)) = .next t1 ∧ step t1 = .next t2 ∧ step t2 = .next t3 ∧
      step t3 = .next t4 ∧ t4.pending = [] ∧ t4.lastRead64 = some v) ∧
  (∀ s : State, s.resetAsserted = false → s.pending = [] →
    ∃ t1 t2 : State, step (s.load (rd64 0x00030#18)) = .next t1 ∧ step t1 = .next t2 ∧
      t2 = { s with responses := t2.responses } ∧ t2.lastRead64 = some s.result)

/-- 20_memory.md section 5: an accepted read has no side effect. -/
def Obligations.AcceptedReadsHaveNoSideEffect : Prop :=
  ∀ (s t : State) (rest : List HostEvent) (a : PortAddr) (w : Width), ¬ PortRefuses s.params a w →
    s.Issues (.read a w) rest → step s = .next t → ∃ d : Word, t = answered s rest (.readDone .okay d)

/-- 60_exceptions.md R154: with nothing issued the PCE is idle, and idling changes no state. -/
def Obligations.IdlingChangesNothing : Prop := ∀ s : State, s.pending = [] → step s = .next s

/-! ## The command word -/

/-- 30_encoding.md Part B: every command's word decodes to it, no other word does, and the words that decode to nothing
are exactly those R89 lists. -/
def Obligations.DecodeAndEncodeAgree : Prop :=
  (∀ i : Instr, i.wf = true → decode (encode i) = .ok i) ∧
  (∀ (w : Word) (i : Instr), decode w = .ok i → w = encode i) ∧
  (∀ w : Word, (∃ r, decode w = .error r) ↔ WordIllegal w) ∧
  (∀ w : Word, legalWord w = true ↔ ¬ WordIllegal w)

/-- Words written out from 30_encoding.md R85 and R90, one of each family and one that is illegal by each test. -/
def Obligations.SomeWordsDecodeAsTheMapSays : Prop :=
  decode 0b00000000000000000000000000000001#32 = .ok .classify ∧
  decode 0b00000000000000000000000000001001#32 = .ok .getDataSize ∧
  decode 0b00000000000000000000000000010111#32 = .ok .getTsNs ∧
  decode 0b00000000000000000000000000100000#32 = .ok .encLeader ∧
  decode 0b00000000000000000000000000110010#32 = .ok .bswap64 ∧
  decode 0b00000000000000000000000000001010#32 = .error .unlistedOpcode ∧
  decode 0b00000000000000000000000100100000#32 = .error .reservedNonzero

/-- 20_memory.md section 5 and 40_classify.md, command issue: a 32-bit write of a legal word to CMD is one step that runs
that command and is then answered OKAY; around exec the step takes the transaction off and records the response, and a
fault of the command is the step's. -/
def Obligations.StepRunsTheDecodedCommand : Prop :=
  ∀ (s : State) (rest : List HostEvent) (w : Word) (i : Instr), s.Issues (.write 0x00010#18 .word w) rest →
    decode w = .ok i →
    step s = mapNext (exec i { s with pending := rest })
      (fun t => { t with responses := .writeDone .okay :: t.responses })

/-- 40_classify.md R105: an illegal word sets E_ILLEGAL, LAST_ERR = 1 and DONE, and leaves RESULT, PB and every other
register as they were. A narrow or misaligned write to CMD is a bus error and no illegal command. -/
def Obligations.IllegalWordsRaiseIllegal : Prop :=
  (∀ (s : State) (rest : List HostEvent) (w : Word), WordIllegal w → s.Issues (.write 0x00010#18 .word w) rest →
    step s = .next { answered s rest (.writeDone .okay) with
      status := (s.status &&& 0xFFF0FFFF#32) ||| 0x00010101#32 }) ∧
  (∀ (s : State) (rest : List HostEvent) (a : PortAddr) (w : Width) (v : Word), a.toNat / 4 = 0x10 / 4 →
    w ≠ .word ∨ a.toNat % 4 ≠ 0 → s.Issues (.write a w v) rest →
    step s = .next { answered s rest (.writeDone .error) with status := s.status ||| 0x00000800#32 })

/-! ## Classifier and status commands -/

/-- 40_classify.md R100: NOP finishes and changes nothing else, and it is the only legal command that changes neither
RESULT nor PB. -/
def Obligations.NopOnlyFinishes : Prop :=
  decode 0x00000000#32 = .ok .nop ∧
  (∀ s : State, exec .nop s = .next { s with status := (s.status &&& 0xFFF0FFFF#32) ||| 0x00000001#32 }) ∧
  (∃ s : State, ∀ i : Instr, i ≠ .nop → ∃ t : State, exec i s = .next t ∧ t.result ≠ s.result)

/-- 40_classify.md R101: CLASSIFY packs content type, error bit, mode and status of bytes 0, 1 and 4. -/
def Obligations.ClassifyPacksStatusModeAndType : Prop :=
  decode 0x00000001#32 = .ok .classify ∧
  ∀ (s : State) (b0 b1 b4 : Byte), s.pb.read 0 = some b0 → s.pb.read 1 = some b1 → s.pb.read 4 = some b4 →
    exec .classify s = .next (finishedWith s (BitVec.ofNat 64
      (b4.toNat % 128 * 2 ^ 24 + b0.toNat / 128 * 2 ^ 17 + b4.toNat / 128 * 2 ^ 16 + (b0.toNat * 256 + b1.toNat))))

/-- 40_classify.md R102 and R103, 41_header_fields.md R106 and R109: the commands that read one byte or the status. -/
def Obligations.HeaderModePacketTypeContentTypeAndOffset : Prop :=
  (decode 0x00000002#32 = .ok .getHeaderMode ∧ ∀ (s : State) (b4 : Byte), s.pb.read 4 = some b4 →
    exec .getHeaderMode s = .next (finishedWith s (BitVec.ofNat 64 (b4.toNat / 128)))) ∧
  (decode 0x00000003#32 = .ok .getPacketType ∧ ∀ (s : State) (b0 b1 : Byte), s.pb.read 0 = some b0 →
    s.pb.read 1 = some b1 →
    exec .getPacketType s = .next (finishedWith s (BitVec.ofNat 64 (b0.toNat * 256 + b1.toNat)))) ∧
  (decode 0x00000005#32 = .ok .getContentType ∧ ∀ (s : State) (b4 : Byte), s.pb.read 4 = some b4 →
    exec .getContentType s = .next (finishedWith s (BitVec.ofNat 64 (b4.toNat % 128)))) ∧
  (decode 0x00000008#32 = .ok .getDataOffset ∧ ∀ (s : State) (b4 : Byte), s.pb.read 4 = some b4 →
    exec .getDataOffset s = .next (finishedWith s (BitVec.ofNat 64 (if b4.toNat < 128 then 8 else 20))))

/-- 40_classify.md R104: IS_ERROR is bit 15 of ARG, whatever the other bits are. -/
def Obligations.IsErrorIsBitFifteen : Prop :=
  decode 0x00000004#32 = .ok .isError ∧
  ∀ s : State, exec .isError s =
    .next (finishedWith s (if 0x8000 ≤ s.argLo.toNat % 0x10000 then 1#64 else 0#64))

/-! ## Header field accessors -/

/-- 41_header_fields.md R107: the packet id, 24 bits of the packet-info word in compact mode and bytes 16-19 in extended
mode. -/
def Obligations.PacketIdByHeaderMode : Prop :=
  decode 0x00000006#32 = .ok .getPacketId ∧
  (∀ (s : State) (b4 b5 b6 b7 : Byte), b4.toNat < 128 → s.pb.Holds 4 [b4, b5, b6, b7] →
    exec .getPacketId s =
      .next (finishedWith s (BitVec.ofNat 64 (b5.toNat * 65536 + b6.toNat * 256 + b7.toNat)))) ∧
  (∀ (s : State) (b4 : Byte) (v : Word), 128 ≤ b4.toNat → s.pb.read 4 = some b4 → s.pb.Holds 16 (bytes32 v) →
    exec .getPacketId s = .next (finishedWith s (BitVec.ofNat 64 v.toNat)))

/-- 41_header_fields.md R108: the frame id, 16 bits at 2 in compact mode and one 64-bit big-endian number at 8 in
extended mode. -/
def Obligations.FrameIdByHeaderMode : Prop :=
  decode 0x00000007#32 = .ok .getFrameId ∧
  (∀ (s : State) (b4 : Byte) (v : Half), b4.toNat < 128 → s.pb.read 4 = some b4 → s.pb.Holds 2 (bytes16 v) →
    exec .getFrameId s = .next (finishedWith s (BitVec.ofNat 64 v.toNat))) ∧
  (∀ (s : State) (b4 : Byte) (v : DWord), 128 ≤ b4.toNat → s.pb.read 4 = some b4 → s.pb.Holds 8 (bytes64 v) →
    exec .getFrameId s = .next (finishedWith s v))

/-- 41_header_fields.md R110: GET_DATA_SIZE subtracts the data offset from PKT_LEN, and raises SIZE with RESULT = 0
instead of underflowing; below 8 it does not read PB[4]. -/
def Obligations.DataSizeOrSizeError : Prop :=
  decode 0x00000009#32 = .ok .getDataSize ∧
  (∀ s : State, s.pktLen.toNat < 8 → exec .getDataSize s = .next (raisedWithZero s 9 2)) ∧
  (∀ (s : State) (b4 : Byte), 8 ≤ s.pktLen.toNat → s.pb.read 4 = some b4 →
    exec .getDataSize s = .next
      (if s.pktLen.toNat < payloadAt b4 then raisedWithZero s 9 2
       else finishedWith s (BitVec.ofNat 64 (s.pktLen.toNat - payloadAt b4)))) ∧
  (∀ s : State, s.params.Legal → s.WarlLegal → ∀ t : State, exec .getDataSize s = .next t →
    t.result.toNat ≤ s.params.pbSize - 8)

/-- The properties of the header accessors the spec infers (41_header_fields.md, R111 [derived]): compact ids stay in
their ranges, and the content type does not depend on the mode bit. -/
def Obligations.CompactIdsInRangeAndTypeIgnoresMode : Prop :=
  (∀ (s t : State) (b4 : Byte), s.pb.read 4 = some b4 → b4.toNat < 128 →
    (exec .getFrameId s = .next t → t.result.toNat < 2 ^ 16) ∧
    (exec .getPacketId s = .next t → t.result.toNat < 2 ^ 24)) ∧
  (∀ (s : State) (b b' : Byte), b.toNat % 128 = b'.toNat % 128 →
    ∃ t t' : State, exec .getContentType { s with pb := s.pb.set 4 b } = .next t ∧
      exec .getContentType { s with pb := s.pb.set 4 b' } = .next t' ∧ t.result = t'.result)

/-! ## Leader accessors, scaler, buffer kinds -/

/-- 42_leader_timestamp.md R114-R118: the five 32-bit leader fields at DOFF + o, big-endian and zero-extended, whatever
the content type and PKT_LEN are. -/
def Obligations.LeaderWordFields : Prop :=
  ∀ (i : Instr) (w : Word) (o : Nat),
    (i, w, o) ∈
      ([(.getPixelFormat, 0x00000011#32, 12), (.getWidth, 0x00000012#32, 16), (.getHeight, 0x00000013#32, 20),
        (.getXOffset, 0x00000014#32, 24), (.getYOffset, 0x00000015#32, 28)] : List (Instr × Word × Nat)) →
    decode w = .ok i ∧
    ∀ (s : State) (b4 : Byte) (v : Word), s.pb.read 4 = some b4 → s.pb.Holds (payloadAt b4 + o) (bytes32 v) →
      exec i s = .next (finishedWith s (BitVec.ofNat 64 v.toNat))

/-- 42_leader_timestamp.md R113 and R124: the leader's payload type, and its buffer kind. -/
def Obligations.PayloadTypeAndBufferKind : Prop :=
  decode 0x00000010#32 = .ok .getPayloadType ∧ decode 0x00000018#32 = .ok .getBufferKind ∧
  ∀ (s : State) (b4 : Byte) (v : Half), s.pb.read 4 = some b4 → s.pb.Holds (payloadAt b4 + 2) (bytes16 v) →
    exec .getPayloadType s = .next (finishedWith s (BitVec.ofNat 64 v.toNat)) ∧
    exec .getBufferKind s = .next (finishedWith s (BitVec.ofNat 64 (kindSpec v.toNat)))

/-- 42_leader_timestamp.md R119 and R121: the tick count, and its scaling by TICK_FREQ with R120's formula; GET_TS_NS
counts the PB bytes as read even where TICK_FREQ is 0. -/
def Obligations.LeaderTicksAndNanoseconds : Prop :=
  decode 0x00000016#32 = .ok .getTsTicks ∧ decode 0x00000017#32 = .ok .getTsNs ∧
  (∀ (s : State) (b4 : Byte), s.pb.read 4 = some b4 → s.tickFreqHi = 0#32 → s.tickFreqLo = 0#32 →
    (∃ j < 8, s.pb.Unwritten (payloadAt b4 + 4 + j)) → exec .getTsNs s = .fault .unwrittenRead) ∧
  ∀ (s : State) (b4 : Byte) (hi lo : Word), s.pb.read 4 = some b4 →
    s.pb.Holds (payloadAt b4 + 4) (bytes32 hi ++ bytes32 lo) →
    exec .getTsTicks s = .next (finishedWith s (BitVec.ofNat 64 (hi.toNat * 2 ^ 32 + lo.toNat))) ∧
    exec .getTsNs s = .next (finishedWith s (BitVec.ofNat 64
      (tsNsSpec (hi.toNat * 2 ^ 32 + lo.toNat) (s.tickFreqHi.toNat * 2 ^ 32 + s.tickFreqLo.toNat))))

/-- 42_leader_timestamp.md R120 and R122: the scaler on ARG. -/
def Obligations.ScaleTsFollowsTheFormula : Prop :=
  decode 0x0000001A#32 = .ok .scaleTs ∧
  ∀ s : State, exec .scaleTs s = .next (finishedWith s (BitVec.ofNat 64
    (tsNsSpec (s.argHi.toNat * 2 ^ 32 + s.argLo.toNat) (s.tickFreqHi.toNat * 2 ^ 32 + s.tickFreqLo.toNat))))

/-- The exactness range the spec infers (42_leader_timestamp.md, R123 [derived]): in it the answer is the exact quotient,
and one second of ticks is 10^9 ns at every frequency. -/
def Obligations.ScalerExactInItsRange : Prop :=
  (∀ s : State, 1 ≤ s.tickFreq.toNat → s.tickFreq.toNat ≤ 18446744074 →
    s.arg.toNat / s.tickFreq.toNat ≤ 18446744072 →
    ∃ t : State, exec .scaleTs s = .next t ∧ t.result.toNat = s.arg.toNat * 10 ^ 9 / s.tickFreq.toNat) ∧
  (∀ s : State, 1 ≤ s.tickFreq.toNat → s.arg = s.tickFreq →
    ∃ t : State, exec .scaleTs s = .next t ∧ t.result.toNat = 10 ^ 9)

/-- 42_leader_timestamp.md R125: the map on ARG[15:0], total on all 16-bit values. -/
def Obligations.MapBufferKindIsTotal : Prop :=
  decode 0x00000019#32 = .ok .mapBufferKind ∧
  ∀ s : State, exec .mapBufferKind s =
    .next (finishedWith s (BitVec.ofNat 64 (kindSpec (s.argLo.toNat % 0x10000))))

/-! ## Encoders -/

/-- 43_encoder.md R127: with ENC_CAP at least 40 the leader builder writes its 40 bytes and no other byte of PB; below 40
it raises CAP with RESULT = 0 and PB unchanged. -/
def Obligations.EncLeaderWritesFortyBytes : Prop :=
  decode 0x00000020#32 = .ok .encLeader ∧
  (∀ s : State, 40 ≤ s.encCap.toNat →
    ∃ m : Memory, exec .encLeader s = .next { finishedWith s 40#64 with pb := m } ∧
      m.Holds 0 (headerBytes s 0x01#8 ++ [0x00#8, 0x00#8] ++ bytes16 s.params.leaderPtype ++ bytes32 s.inTsHi ++
        bytes32 s.inTsLo ++ bytes32 s.inPixelFormat ++ bytes32 s.inWidth ++ bytes32 s.inHeight ++
        bytes32 s.inXOffset ++ bytes32 s.inYOffset) ∧
      ∀ k : Nat, 40 ≤ k → m.read k = s.pb.read k) ∧
  (∀ s : State, s.encCap.toNat < 40 → exec .encLeader s = .next (raisedWithZero s 10 3))

/-- 43_encoder.md R128: the same for the trailer builder and its 16 bytes. -/
def Obligations.EncTrailerWritesSixteenBytes : Prop :=
  decode 0x00000021#32 = .ok .encTrailer ∧
  (∀ s : State, 16 ≤ s.encCap.toNat →
    ∃ m : Memory, exec .encTrailer s = .next { finishedWith s 16#64 with pb := m } ∧
      m.Holds 0 (headerBytes s 0x02#8 ++ bytes32 s.params.trailerPtype ++ [0x00#8, 0x00#8, 0x00#8, 0x00#8]) ∧
      ∀ k : Nat, 16 ≤ k → m.read k = s.pb.read k) ∧
  (∀ s : State, s.encCap.toNat < 16 → exec .encTrailer s = .next (raisedWithZero s 10 3))

/-- 43_encoder.md R129: the data-block builder copies min(IN_DATA_LEN, ENC_CAP - 8) bytes of SB, each written or not,
behind the header; RESULT never exceeds ENC_CAP and equals it when the request is at least what fits. -/
def Obligations.EncDataBlockCopiesTheSpan : Prop :=
  decode 0x00000022#32 = .ok .encDataBlock ∧
  (∀ (s : State) (n : Nat), 8 ≤ s.encCap.toNat → n = min s.inDataLen.toNat (s.encCap.toNat - 8) →
    (∃ m : Memory, exec .encDataBlock s = .next { finishedWith s (BitVec.ofNat 64 (8 + n)) with pb := m } ∧
      m.Holds 0 (headerBytes s 0x03#8) ∧
      (∀ i < n, m.read (8 + i) = s.sb.read i) ∧
      ∀ k : Nat, 8 + n ≤ k → m.read k = s.pb.read k) ∧
    (∃ t : State, exec .encDataBlock s = .next t ∧ t.result.toNat ≤ s.encCap.toNat ∧
      (s.encCap.toNat - 8 ≤ s.inDataLen.toNat → t.result.toNat = s.encCap.toNat) ∧
      (t.result.toNat < 8 + s.inDataLen.toNat ↔ s.encCap.toNat - 8 < s.inDataLen.toNat)) ∧
    (s.params.Legal → s.WarlLegal → n ≤ s.params.sbSize)) ∧
  (∀ s : State, s.encCap.toNat < 8 → exec .encDataBlock s = .next (raisedWithZero s 10 3))

/-- 43_encoder.md, last rule: every packet an encoder writes has the mode bit PB[4][7] clear. -/
def Obligations.EncodedPacketsAreCompact : Prop :=
  ∀ (i : Instr) (s t : State), i ∈ encoders → exec i s = .next t →
    (t = raisedWithZero s 10 3 ∧ t.pb = s.pb) ∨ (∃ b : Byte, t.pb.read 4 = some b ∧ b.toNat < 128)

/-- The round trip the spec infers (43_encoder.md, R130 [derived]) for the leader: after ENC_LEADER and PKT_LEN <-
RESULT_LO, every accessor answers the value the builder was given. -/
def Obligations.LeaderRoundTrip : Prop :=
  ∀ s : State, 40 ≤ s.encCap.toNat →
    ∃ t : State, exec .encLeader s = .next t ∧
      ∀ (i : Instr) (v : Nat),
        (i, v) ∈
          ([(.getPacketType, 0), (.getHeaderMode, 0), (.getContentType, 1), (.getFrameId, s.inFrameId.toNat),
            (.getPacketId, s.inPacketId.toNat % 2 ^ 24), (.getDataOffset, 8), (.getDataSize, 32),
            (.getPayloadType, s.params.leaderPtype.toNat), (.getTsTicks, s.inTsHi.toNat * 2 ^ 32 + s.inTsLo.toNat),
            (.getPixelFormat, s.inPixelFormat.toNat), (.getWidth, s.inWidth.toNat), (.getHeight, s.inHeight.toNat),
            (.getXOffset, s.inXOffset.toNat), (.getYOffset, s.inYOffset.toNat)] : List (Instr × Nat)) →
        exec i { t with pktLen := t.resultLo } =
          .next (finishedWith { t with pktLen := t.resultLo } (BitVec.ofNat 64 v))

/-- The same round trip (R130 [derived]) for the trailer and the data block, whose payload bytes are those of SB. -/
def Obligations.TrailerAndDataBlockRoundTrip : Prop :=
  ∀ (e : Instr) (ct fixed : Nat) (s : State),
    (e, ct, fixed) ∈ ([(.encTrailer, 2, 16), (.encDataBlock, 3, 8)] : List (Instr × Nat × Nat)) →
    fixed ≤ s.encCap.toNat →
    ∃ t : State, exec e s = .next t ∧
      (e = .encDataBlock → ∀ j : Nat, 8 + j < t.resultLo.toNat → t.pb.read (8 + j) = s.sb.read j) ∧
      ∀ (i : Instr) (v : Nat),
        (i, v) ∈
          ([(.getPacketType, 0), (.getHeaderMode, 0), (.getContentType, ct), (.getFrameId, s.inFrameId.toNat),
            (.getPacketId, s.inPacketId.toNat % 2 ^ 24), (.getDataOffset, 8),
            (.getDataSize, t.resultLo.toNat - 8)] : List (Instr × Nat)) →
        exec i { t with pktLen := t.resultLo } =
          .next (finishedWith { t with pktLen := t.resultLo } (BitVec.ofNat 64 v))

/-! ## Byte-order converter -/

/-- 44_byteorder_ops.md R132: BSWAP16 reverses the two bytes of ARG[15:0], and undoes itself. -/
def Obligations.Bswap16ReversesTwoBytes : Prop :=
  decode 0x00000030#32 = .ok .bswap16 ∧
  (∀ s : State, exec .bswap16 s = .next (finishedWith s (BitVec.ofNat 64
    (s.argLo.toNat % 256 * 256 + s.argLo.toNat / 256 % 256)))) ∧
  (∀ s t u : State, exec .bswap16 s = .next t → u.argLo = t.resultLo → u.argHi = t.resultHi →
    ∃ z : State, exec .bswap16 u = .next z ∧ z.result.toNat = s.argLo.toNat % 0x10000)

/-- 44_byteorder_ops.md R133: BSWAP32 reverses the four bytes of ARG[31:0]. -/
def Obligations.Bswap32ReversesFourBytes : Prop :=
  decode 0x00000031#32 = .ok .bswap32 ∧
  ∀ s : State, exec .bswap32 s = .next (finishedWith s (BitVec.ofNat 64
    (s.argLo.toNat % 256 * 2 ^ 24 + s.argLo.toNat / 256 % 256 * 2 ^ 16 + s.argLo.toNat / 2 ^ 16 % 256 * 2 ^ 8 +
      s.argLo.toNat / 2 ^ 24)))

/-- 44_byteorder_ops.md R134: BSWAP64 reverses all eight bytes of ARG as one quantity, so the new low word is the old
high word reversed. -/
def Obligations.Bswap64ReversesEightBytes : Prop :=
  decode 0x00000032#32 = .ok .bswap64 ∧
  ∀ s : State, ∃ v : DWord, exec .bswap64 s = .next (finishedWith s v) ∧
    ∀ j < 8, v.toNat / 2 ^ (8 * j) % 256 = s.arg.toNat / 2 ^ (8 * (7 - j)) % 256

/-- The relation of the converter to the engine's reads the spec infers (44_byteorder_ops.md, R135 [derived]): what a
window read of a wire field returns, put in ARG, BSWAP turns into the field's value. -/
def Obligations.SwapOfWindowReadIsTheWireField : Prop :=
  (∀ (s : State) (rest : List HostEvent) (k : Nat) (v : Half), s.params.Legal → k % 2 = 0 →
    k + 2 ≤ s.params.pbSize → s.pb.Holds k (bytes16 v) → s.Issues (.read (BitVec.ofNat 18 (0x10000 + k)) .half) rest →
    ∃ (t : State) (x : Word) (u : State), step s = .next t ∧ t.responses = .readDone .okay x :: s.responses ∧
      exec .bswap16 { t with argLo := x } = .next u ∧ u.result.toNat = v.toNat) ∧
  (∀ (s : State) (rest : List HostEvent) (k : Nat) (v : Word), s.params.Legal → k % 4 = 0 →
    k + 4 ≤ s.params.pbSize → s.pb.Holds k (bytes32 v) → s.Issues (.read (BitVec.ofNat 18 (0x10000 + k)) .word) rest →
    ∃ (t : State) (x : Word) (u : State), step s = .next t ∧ t.responses = .readDone .okay x :: s.responses ∧
      exec .bswap32 { t with argLo := x } = .next u ∧ u.result.toNat = v.toNat) ∧
  (∀ (s : State) (rest : List HostEvent) (k : Nat) (v : DWord), s.params.Legal → k % 4 = 0 →
    k + 8 ≤ s.params.pbSize → s.pb.Holds k (bytes64 v) →
    s.Issues (.read (BitVec.ofNat 18 (0x10000 + k)) .word)
      (.bus (.read (BitVec.ofNat 18 (0x10000 + (k + 4))) .word) :: rest) →
    ∃ (t t' : State) (lo hi : Word) (u : State), step s = .next t ∧ step t = .next t' ∧
      t'.responses = .readDone .okay hi :: .readDone .okay lo :: s.responses ∧
      exec .bswap64 { t' with argLo := lo, argHi := hi } = .next u ∧ u.result = v)

/-! ## Rules over all commands -/

/-- 20_memory.md section 8: a command whose result depends on an unwritten PB byte is the model fault UNWRITTEN_READ. That
it faults on ANY unwritten byte its rule names, even where another byte decides the result (GET_BUFFER_KIND with
PB[DOFF+2] = 0xFF and PB[DOFF+3] unwritten), is the model's deduction (log 4, DEDUCED, safe) and no rule of the spec. -/
def Obligations.UnwrittenBytesFault : Prop :=
  ∀ s : State,
    (∀ i ∈ ([.classify, .getHeaderMode, .getContentType, .getPacketId, .getFrameId, .getDataOffset, .getPayloadType,
        .getPixelFormat, .getWidth, .getHeight, .getXOffset, .getYOffset, .getTsTicks, .getTsNs, .getBufferKind] :
        List Instr), s.pb.Unwritten 4 → exec i s = .fault .unwrittenRead) ∧
    (s.pb.Unwritten 4 → 8 ≤ s.pktLen.toNat → exec .getDataSize s = .fault .unwrittenRead) ∧
    (s.pb.Unwritten 0 ∨ s.pb.Unwritten 1 →
      exec .classify s = .fault .unwrittenRead ∧ exec .getPacketType s = .fault .unwrittenRead) ∧
    (∀ b4 : Byte, s.pb.read 4 = some b4 →
      (b4.toNat < 128 → (∃ j < 3, s.pb.Unwritten (5 + j)) → exec .getPacketId s = .fault .unwrittenRead) ∧
      (128 ≤ b4.toNat → (∃ j < 4, s.pb.Unwritten (16 + j)) → exec .getPacketId s = .fault .unwrittenRead) ∧
      (b4.toNat < 128 → (∃ j < 2, s.pb.Unwritten (2 + j)) → exec .getFrameId s = .fault .unwrittenRead) ∧
      (128 ≤ b4.toNat → (∃ j < 8, s.pb.Unwritten (8 + j)) → exec .getFrameId s = .fault .unwrittenRead) ∧
      (∀ (i : Instr) (o n : Nat),
        (i, o, n) ∈
          ([(.getPayloadType, 2, 2), (.getBufferKind, 2, 2), (.getPixelFormat, 12, 4), (.getWidth, 16, 4),
            (.getHeight, 20, 4), (.getXOffset, 24, 4), (.getYOffset, 28, 4), (.getTsTicks, 4, 8), (.getTsNs, 4, 8)] :
            List (Instr × Nat × Nat)) →
        (∃ j < n, s.pb.Unwritten (payloadAt b4 + o + j)) → exec i s = .fault .unwrittenRead))

/-- 40_classify.md, command issue, 10_state.md section 5 and 43_encoder.md R126: a command changes nothing but STATUS, RESULT
and, for an encoder, PB; of STATUS only DONE, E_ILLEGAL, E_SIZE, E_CAP and LAST_ERR; of PB only the bytes from offset 0
below RESULT (40, 16, or 8 and the copied span), and none where the encoder raises CAP. -/
def Obligations.CommandsChangeOnlyStatusResultAndEncodedBytes : Prop :=
  ∀ (i : Instr) (s t : State), exec i s = .next t →
    t = { s with status := t.status, resultLo := t.resultLo, resultHi := t.resultHi, pb := t.pb } ∧
    (i ∉ encoders → t.pb = s.pb) ∧
    (∀ fixed written : Nat,
      (i, fixed, written) ∈
        ([(.encLeader, 40, 40), (.encTrailer, 16, 16), (.encDataBlock, 8, 8 + dataBlockLength s)] :
          List (Instr × Nat × Nat)) →
      (s.encCap.toNat < fixed → t.result = 0#64 ∧ t.pb = s.pb) ∧
      (fixed ≤ s.encCap.toNat → t.result.toNat = written ∧ ∀ k : Nat, written ≤ k → t.pb.read k = s.pb.read k)) ∧
    (i = .nop → t.result = s.result) ∧
    t.status.getLsbD 0 = true ∧
    ∀ j < 32, j ∉ [0, 8, 9, 10, 16, 17, 18, 19] → t.status.getLsbD j = s.status.getLsbD j

/-- 10_state.md section 5 (R48): a command's outcome depends on no register and no buffer but its operands. -/
def Obligations.CommandsReadOnlyTheirOperands : Prop :=
  ∀ (i : Instr) (s : State),
    (i ∉ ([.getTsNs, .scaleTs] : List Instr) → ∀ lo hi : Word,
      exec i { s with tickFreqLo := lo, tickFreqHi := hi } =
        mapNext (exec i s) (fun t => { t with tickFreqLo := lo, tickFreqHi := hi })) ∧
    (i ∉ ([.isError, .mapBufferKind, .scaleTs, .bswap16, .bswap32, .bswap64] : List Instr) → ∀ lo hi : Word,
      exec i { s with argLo := lo, argHi := hi } = mapNext (exec i s) (fun t => { t with argLo := lo, argHi := hi })) ∧
    (i ∉ encoders → ∀ (c p : Word) (f : Half),
      exec i { s with encCap := c, inFrameId := f, inPacketId := p } =
        mapNext (exec i s) (fun t => { t with encCap := c, inFrameId := f, inPacketId := p })) ∧
    (i ≠ .encLeader → ∀ a b c d e f g : Word,
      exec i { s with inTsLo := a, inTsHi := b, inPixelFormat := c, inWidth := d, inHeight := e, inXOffset := f,
                      inYOffset := g } =
        mapNext (exec i s) (fun t => { t with inTsLo := a, inTsHi := b, inPixelFormat := c, inWidth := d,
                                              inHeight := e, inXOffset := f, inYOffset := g })) ∧
    (i ≠ .encDataBlock → ∀ (n : Word) (m : Memory),
      exec i { s with inDataLen := n, sb := m } = mapNext (exec i s) (fun t => { t with inDataLen := n, sb := m })) ∧
    (i ∈ ([.nop, .isError, .mapBufferKind, .scaleTs, .bswap16, .bswap32, .bswap64] : List Instr) → ∀ m : Memory,
      exec i { s with pb := m } = mapNext (exec i s) (fun t => { t with pb := m }))

/-- 10_state.md R26: every processed CMD write sets LAST_ERR, to ILLEGAL (1) for an illegal word, SIZE (2) for a data-size
underflow, CAP (3) for an encoder without capacity and NONE (0) otherwise; no other transaction changes it, a refused one
included. -/
def Obligations.LastErrRecordsTheLatestCommand : Prop :=
  (∀ (s t : State) (rest : List HostEvent) (w : Word), s.Issues (.write 0x00010#18 .word w) rest → step s = .next t →
    t.status.toNat / 2 ^ 16 % 16 < 4 ∧
    (t.status.toNat / 2 ^ 16 % 16 = 1 ↔ ∃ r, decode w = .error r) ∧
    (t.status.toNat / 2 ^ 16 % 16 = 2 ↔ decode w = .ok .getDataSize ∧
      (s.pktLen.toNat < 8 ∨ ∃ b4 : Byte, s.pb.read 4 = some b4 ∧ s.pktLen.toNat < payloadAt b4)) ∧
    (t.status.toNat / 2 ^ 16 % 16 = 3 ↔
      (decode w = .ok .encLeader ∧ s.encCap.toNat < 40) ∨ (decode w = .ok .encTrailer ∧ s.encCap.toNat < 16) ∨
        (decode w = .ok .encDataBlock ∧ s.encCap.toNat < 8))) ∧
  (∀ (s t : State) (rest : List HostEvent) (x : Txn), s.Issues x rest →
    (∀ w : Word, x ≠ .write 0x00010#18 .word w) → step s = .next t →
    t.status.toNat / 2 ^ 16 % 16 = s.status.toNat / 2 ^ 16 % 16)

/-- 60_exceptions.md section 3: no transaction but a write to STATUS clears DONE or an E_* bit, so errors accumulate. -/
def Obligations.ErrorBitsAreSticky : Prop :=
  ∀ (s t : State) (rest : List HostEvent) (x : Txn), s.Issues x rest →
    (∀ w : Word, x ≠ .write 0x00014#18 .word w) → step s = .next t →
    ∀ j ∈ [0, 8, 9, 10, 11], s.status.getLsbD j = true → t.status.getLsbD j = true

/-- 00_scope.md R5 and the model's choice to carry the parameters in the state (log 3): no step changes one. -/
def Obligations.ParametersNeverChange : Prop := ∀ s t : State, step s = .next t → t.params = s.params

/-- The invariant holds after reset, for every legal choice of the parameters. -/
def Obligations.InvariantHoldsAtReset : Prop :=
  (∀ p : Params, p.Legal → (State.resetWith p).Inv) ∧ State.reset.Inv

/-- Every step keeps the invariant: the parameters stay legal, PB and SB stay canonical and inside their sizes (no engine
or host access leaves a buffer), the reserved bits of STATUS stay 0 and LAST_ERR one of its codes, PKT_LEN and ENC_CAP
stay at most PB_SIZE, and an asserted reset holds the reset state. -/
def Obligations.EveryStepKeepsTheInvariant : Prop :=
  ∀ s t : State, s.Inv → step s = .next t → t.Inv
end

