-- ==== Sys2Proof/Laws/Bits.lean ====
section
/-! SUPPORT. Joining and cutting at the widths the PCE uses: a field is the number its bytes spell, most significant
first. -/

namespace Sys2Proof

theorem getLsbD_join8 (h l : Byte) (i : Nat) : (h ++ l : Half).getLsbD i = if i < 8 then l.getLsbD i else h.getLsbD (i - 8) :=
  BitVec.getLsbD_append

theorem getLsbD_join16 (h l : Half) (i : Nat) : (h ++ l : Word).getLsbD i = if i < 16 then l.getLsbD i else h.getLsbD (i - 16) :=
  BitVec.getLsbD_append

theorem getLsbD_join32 (h l : Word) (i : Nat) : (h ++ l : DWord).getLsbD i = if i < 32 then l.getLsbD i else h.getLsbD (i - 32) :=
  BitVec.getLsbD_append

/-- A joined number of `n + m` bits. -/
theorem toNat_join {n m : Nat} (h : BitVec n) (l : BitVec m) : (h ++ l).toNat = h.toNat * 2 ^ m + l.toNat := by
  rw [BitVec.toNat_append, ← Nat.shiftLeft_add_eq_or_of_lt l.isLt, Nat.shiftLeft_eq]

theorem toNat_join8 (h l : Byte) : (h ++ l : Half).toNat = h.toNat * 256 + l.toNat := toNat_join h l

theorem toNat_join16 (h l : Half) : (h ++ l : Word).toNat = h.toNat * 65536 + l.toNat := toNat_join h l

theorem toNat_join32 (h l : Word) : (h ++ l : DWord).toNat = h.toNat * 4294967296 + l.toNat := toNat_join h l

/-- The two bytes of a 16-bit field, joined again. -/
theorem join8_extract (v : Half) : (v.extractLsb' 8 8 ++ v.extractLsb' 0 8 : Half) = v := by
  apply BitVec.eq_of_toNat_eq
  rw [toNat_join8]
  simp [Nat.shiftRight_eq_div_pow]
  omega

/-- The halves of a 32-bit field, joined again. -/
theorem join16_extract (v : Word) : (v.extractLsb' 16 16 ++ v.extractLsb' 0 16 : Word) = v := by
  apply BitVec.eq_of_toNat_eq
  rw [toNat_join16]
  simp [Nat.shiftRight_eq_div_pow]
  omega

/-- The words of a 64-bit value, joined again. -/
theorem join32_extract (v : DWord) : (v.extractLsb' 32 32 ++ v.extractLsb' 0 32 : DWord) = v := by
  apply BitVec.eq_of_toNat_eq
  rw [toNat_join32]
  simp [Nat.shiftRight_eq_div_pow]
  omega

/-- The four bytes of a 32-bit field, joined again as MemRead(a, 4) joins them. -/
theorem join_bytes32 (v : Word) :
    ((v.extractLsb' 24 8 ++ v.extractLsb' 16 8 : Half) ++ (v.extractLsb' 8 8 ++ v.extractLsb' 0 8 : Half) : Word) = v := by
  apply BitVec.eq_of_toNat_eq
  rw [toNat_join16, toNat_join8, toNat_join8]
  simp [Nat.shiftRight_eq_div_pow]
  omega

end Sys2Proof
end

