-- ==== Sys2Proof/Laws/Memory.lean ====
section
/-! SUPPORT. The laws of a buffer: a read after a write, a write leaves every other byte alone, and every operation keeps
the canonical form and the buffer's bounds. -/

namespace Sys2Proof.Machine

/-! ## Reading -/

@[simp] theorem Memory.read_nil (k : Nat) : Memory.read [] k = none := rfl

theorem Memory.read_cons (a : Nat) (b : Byte) (r : Memory) (k : Nat) :
    Memory.read ((a, b) :: r) k = if a = k then some b else Memory.read r k := rfl

/-- The one law of a byte write. -/
theorem Memory.read_set (m : Memory) (k : Nat) (v : Byte) (j : Nat) :
    (m.set k v).read j = if j = k then some v else m.read j := by
  induction m with
  | nil => simp only [Memory.set, Memory.read_cons, eq_comm (a := k)]
  | cons c r ih =>
    obtain ⟨a, b⟩ := c
    simp only [Memory.set]
    split
    · simp only [Memory.read_cons, eq_comm (a := k)]
    · split
      · subst a
        simp only [Memory.read_cons, eq_comm (a := k)]
        split <;> rfl
      · simp only [Memory.read_cons, ih]
        split_ifs <;> first | rfl | omega

@[simp] theorem Memory.read_set_self (m : Memory) (k : Nat) (v : Byte) : (m.set k v).read k = some v := by
  simp [Memory.read_set]

theorem Memory.read_set_of_ne (m : Memory) (k : Nat) (v : Byte) (j : Nat) (h : j ≠ k) :
    (m.set k v).read j = m.read j := by
  simp [Memory.read_set, h]

theorem Memory.read_append (m m' : Memory) (k : Nat) : Memory.read (m ++ m') k = (m.read k).or (Memory.read m' k) := by
  induction m with
  | nil => simp
  | cons c r ih =>
    obtain ⟨a, b⟩ := c
    by_cases h : a = k <;> simp [Memory.read, h, ih]

/-- Reading the bytes at the offsets that pass a test. -/
theorem Memory.read_filter (m : Memory) (p : Nat → Bool) (k : Nat) :
    Memory.read (m.filter (fun c => p c.1)) k = if p k then m.read k else none := by
  induction m with
  | nil => simp
  | cons c r ih =>
    obtain ⟨a, b⟩ := c
    by_cases hk : a = k
    · subst hk
      by_cases hp : p a <;> simp [Memory.read_cons, hp, ih]
    · by_cases hp : p a <;> simp [Memory.read_cons, hp, hk, ih]

/-- Reading bytes moved up by `d`. -/
theorem Memory.read_shift (m : Memory) (d k : Nat) :
    Memory.read (m.map (fun c => (d + c.1, c.2))) k = if d ≤ k then m.read (k - d) else none := by
  induction m with
  | nil => simp
  | cons c r ih =>
    obtain ⟨a, b⟩ := c
    by_cases hd : d ≤ k
    · have : d + a = k ↔ a = k - d := by omega
      simp [Memory.read, ih, hd, this]
    · have : d + a ≠ k := by omega
      simp [Memory.read, ih, hd, this]

/-- The one law of the data-block copy: the copied range reads as the source, written or not, and the rest as before. -/
theorem Memory.read_copyInto (dst src : Memory) (d n k : Nat) :
    (dst.copyInto src d n).read k = if d ≤ k ∧ k < d + n then src.read (k - d) else dst.read k := by
  unfold Memory.copyInto
  rw [Memory.read_append, Memory.read_append, Memory.read_shift,
    Memory.read_filter dst (fun x => decide (x < d)), Memory.read_filter src (fun x => decide (x < n)),
    Memory.read_filter dst (fun x => decide (d + n ≤ x))]
  rcases Nat.lt_or_ge k d with h | h
  · have h1 : ¬ d ≤ k := by omega
    have h2 : ¬ d + n ≤ k := by omega
    simp [h, h1, h2]
  · rcases Nat.lt_or_ge k (d + n) with h' | h'
    · have h1 : ¬ k < d := by omega
      have h2 : ¬ d + n ≤ k := by omega
      have h3 : k - d < n := by omega
      simp [h, h', h1, h2, h3]
    · have h1 : ¬ k < d := by omega
      have h2 : ¬ k < d + n := by omega
      have h3 : ¬ k - d < n := by omega
      simp [h, h', h1, h2, h3]

/-! ## Wire fields -/

/-- The one law of MemWrite(a, 2, v). -/
theorem Memory.read_write16 (m : Memory) (a : Nat) (v : Half) (j : Nat) :
    (m.write16 a v).read j =
      if j = a then some (v.extractLsb' 8 8) else if j = a + 1 then some (v.extractLsb' 0 8) else m.read j := by
  simp only [Memory.write16, Memory.read_set]
  split <;> split <;> first | rfl | omega

/-- MemWrite(a, 4, v) writes bytes a to a+3, most significant first. -/
theorem Memory.read_write32 (m : Memory) (a : Nat) (v : Word) (j : Nat) :
    (m.write32 a v).read j =
      if j = a then some (v.extractLsb' 24 8) else if j = a + 1 then some (v.extractLsb' 16 8)
      else if j = a + 2 then some (v.extractLsb' 8 8) else if j = a + 3 then some (v.extractLsb' 0 8)
      else m.read j := by
  have e1 : (v.extractLsb' 16 16).extractLsb' 8 8 = v.extractLsb' 24 8 := by
    ext i hi
    have : 8 + i < 16 := by omega
    simp [this, ← Nat.add_assoc]
  have e2 : (v.extractLsb' 16 16).extractLsb' 0 8 = v.extractLsb' 16 8 := by
    ext i hi; simp; omega
  have e3 : (v.extractLsb' 0 16).extractLsb' 8 8 = v.extractLsb' 8 8 := by
    ext i hi; simp
  have e4 : (v.extractLsb' 0 16).extractLsb' 0 8 = v.extractLsb' 0 8 := by
    ext i hi; simp
  simp only [Memory.write32, Memory.read_write16, e1, e2, e3, e4]
  split_ifs <;> first | rfl | omega

theorem Memory.read16_of_bytes {m : Memory} {a : Nat} {b0 b1 : Byte} (h0 : m.read a = some b0)
    (h1 : m.read (a + 1) = some b1) : m.read16 a = some (b0 ++ b1) := by
  simp [Memory.read16, h0, h1]

theorem Memory.read32_of_bytes {m : Memory} {a : Nat} {b0 b1 b2 b3 : Byte} (h0 : m.read a = some b0)
    (h1 : m.read (a + 1) = some b1) (h2 : m.read (a + 2) = some b2) (h3 : m.read (a + 3) = some b3) :
    m.read32 a = some ((b0 ++ b1) ++ (b2 ++ b3)) := by
  simp [Memory.read32, Memory.read16, h0, h1, h2, h3]

/-- A 16-bit field is unreadable exactly where one of its bytes is unwritten. -/
theorem Memory.read16_eq_none (m : Memory) (a : Nat) :
    m.read16 a = none ↔ ∃ j < 2, m.read (a + j) = none := by
  have h : m.read16 a = none ↔ m.read (a + 0) = none ∨ m.read (a + 1) = none := by
    cases h0 : m.read a <;> cases h1 : m.read (a + 1) <;> simp [Memory.read16, h0, h1]
  rw [h]
  constructor
  · rintro (h | h)
    · exact ⟨0, by omega, h⟩
    · exact ⟨1, by omega, h⟩
  · rintro ⟨j, hj, h⟩
    interval_cases j
    · exact .inl h
    · exact .inr h

/-- A 32-bit field is unreadable exactly where one of its bytes is unwritten. -/
theorem Memory.read32_eq_none (m : Memory) (a : Nat) :
    m.read32 a = none ↔ ∃ j < 4, m.read (a + j) = none := by
  have h : m.read32 a = none ↔ m.read16 a = none ∨ m.read16 (a + 2) = none := by
    cases h0 : m.read16 a <;> cases h1 : m.read16 (a + 2) <;> simp [Memory.read32, h0, h1]
  rw [h, Memory.read16_eq_none, Memory.read16_eq_none]
  constructor
  · rintro (⟨j, hj, h⟩ | ⟨j, hj, h⟩)
    · exact ⟨j, by omega, h⟩
    · exact ⟨2 + j, by omega, by rwa [← Nat.add_assoc]⟩
  · rintro ⟨j, hj, h⟩
    rcases Nat.lt_or_ge j 2 with h2 | h2
    · exact .inl ⟨j, h2, h⟩
    · exact .inr ⟨j - 2, by omega, by rwa [Nat.add_assoc, Nat.add_sub_cancel' h2]⟩

/-- A 64-bit field is unreadable exactly where one of its bytes is unwritten. -/
theorem Memory.read64_eq_none (m : Memory) (a : Nat) :
    m.read64 a = none ↔ ∃ j < 8, m.read (a + j) = none := by
  have h : m.read64 a = none ↔ m.read32 a = none ∨ m.read32 (a + 4) = none := by
    cases h0 : m.read32 a <;> cases h1 : m.read32 (a + 4) <;> simp [Memory.read64, h0, h1]
  rw [h, Memory.read32_eq_none, Memory.read32_eq_none]
  constructor
  · rintro (⟨j, hj, h⟩ | ⟨j, hj, h⟩)
    · exact ⟨j, by omega, h⟩
    · exact ⟨4 + j, by omega, by rwa [← Nat.add_assoc]⟩
  · rintro ⟨j, hj, h⟩
    rcases Nat.lt_or_ge j 4 with h4 | h4
    · exact .inl ⟨j, h4, h⟩
    · exact .inr ⟨j - 4, by omega, by rwa [Nat.add_assoc, Nat.add_sub_cancel' h4]⟩

/-! ## The canonical form -/

theorem Memory.mem_set {m : Memory} {k : Nat} {v : Byte} {c : Host.Cell} (h : c ∈ m.set k v) :
    c = (k, v) ∨ c ∈ m := by
  induction m with
  | nil => simpa [Memory.set] using h
  | cons d r ih =>
    obtain ⟨a, b⟩ := d
    simp only [Memory.set] at h
    split at h
    · simpa using h
    · split at h
      · rcases List.mem_cons.1 h with h | h
        · exact .inl h
        · exact .inr (List.mem_cons_of_mem _ h)
      · rcases List.mem_cons.1 h with h | h
        · exact .inr (by simp [h])
        · exact (ih h).imp id (List.mem_cons_of_mem _)

/-- A byte write keeps the canonical form. -/
theorem Memory.set_wf {m : Memory} (h : m.wf) (k : Nat) (v : Byte) : (m.set k v).wf := by
  induction m with
  | nil => simp [Memory.set, Memory.wf]
  | cons c r ih =>
    obtain ⟨a, b⟩ := c
    rw [Memory.wf, List.pairwise_cons] at h
    obtain ⟨h1, h2⟩ := h
    simp only [Memory.set]
    split
    · rename_i hk
      rw [Memory.wf, List.pairwise_cons]
      refine ⟨?_, List.pairwise_cons.2 ⟨h1, h2⟩⟩
      intro x hx
      rcases List.mem_cons.1 hx with rfl | hx
      · exact hk
      · exact Nat.lt_trans hk (h1 x hx)
    · split
      · rename_i hk
        subst hk
        exact List.pairwise_cons.2 ⟨h1, h2⟩
      · refine List.pairwise_cons.2 ⟨?_, ih h2⟩
        intro x hx
        rcases Memory.mem_set hx with rfl | hx
        · simp only; omega
        · exact h1 x hx

/-- A byte write inside the buffer keeps the canonical form and the bounds. -/
theorem Memory.Within.set {m : Memory} {n : Nat} (h : m.Within n) {k : Nat} (hk : k < n) (v : Byte) :
    (m.set k v).Within n := by
  refine ⟨Memory.set_wf h.1 k v, fun c hc => ?_⟩
  rcases Memory.mem_set hc with rfl | hc
  · exact hk
  · exact h.2 c hc

theorem Memory.write16_wf {m : Memory} (h : m.wf) (a : Nat) (v : Half) : (m.write16 a v).wf :=
  Memory.set_wf (Memory.set_wf h _ _) _ _

theorem Memory.write32_wf {m : Memory} (h : m.wf) (a : Nat) (v : Word) : (m.write32 a v).wf :=
  Memory.write16_wf (Memory.write16_wf h _ _) _ _

theorem Memory.Within.write16 {m : Memory} {n : Nat} (h : m.Within n) {a : Nat} (ha : a + 2 ≤ n) (v : Half) :
    (m.write16 a v).Within n :=
  Memory.Within.set (Memory.Within.set h (by omega) _) (by omega) _

theorem Memory.Within.write32 {m : Memory} {n : Nat} (h : m.Within n) {a : Nat} (ha : a + 4 ≤ n) (v : Word) :
    (m.write32 a v).Within n :=
  Memory.Within.write16 (Memory.Within.write16 h (by omega) _) (by omega) _

/-- The data-block copy keeps the canonical form. -/
theorem Memory.copyInto_wf {dst src : Memory} (hd : dst.wf) (hs : src.wf) (d n : Nat) : (dst.copyInto src d n).wf := by
  unfold Memory.copyInto
  rw [Memory.wf, List.pairwise_append, List.pairwise_append]
  refine ⟨hd.filter _, ⟨?_, hd.filter _, ?_⟩, ?_⟩
  · rw [List.pairwise_map]
    exact (hs.filter _).imp (fun h => by simpa using h)
  · intro x hx y hy
    obtain ⟨c, hc, rfl⟩ := List.mem_map.1 hx
    have h1 := of_decide_eq_true (List.mem_filter.1 hc).2
    have h2 := of_decide_eq_true (List.mem_filter.1 hy).2
    simp only at h1 h2 ⊢
    omega
  · intro x hx y hy
    have h1 := of_decide_eq_true (List.mem_filter.1 hx).2
    rcases List.mem_append.1 hy with hy | hy
    · obtain ⟨c, -, rfl⟩ := List.mem_map.1 hy
      simp only at h1 ⊢
      omega
    · have h2 := of_decide_eq_true (List.mem_filter.1 hy).2
      omega

/-- The data-block copy inside the buffer keeps the canonical form and the bounds. -/
theorem Memory.Within.copyInto {dst src : Memory} {size : Nat} (hd : dst.Within size) (hs : src.wf) {d n : Nat}
    (hn : d + n ≤ size) : (dst.copyInto src d n).Within size := by
  refine ⟨Memory.copyInto_wf hd.1 hs d n, fun c hc => ?_⟩
  unfold Memory.copyInto at hc
  rcases List.mem_append.1 hc with hc | hc
  · exact hd.2 c (List.mem_filter.1 hc).1
  · rcases List.mem_append.1 hc with hc | hc
    · obtain ⟨e, he, rfl⟩ := List.mem_map.1 hc
      have := of_decide_eq_true (List.mem_filter.1 he).2
      simp only
      omega
    · exact hd.2 c (List.mem_filter.1 hc).1

/-- No byte stands beyond the end of a buffer. -/
theorem Memory.Within.read_eq_none {m : Memory} {n k : Nat} (h : m.Within n) (hk : n ≤ k) : m.read k = none := by
  have h' := h.2
  clear h
  induction m with
  | nil => rfl
  | cons c r ih =>
    obtain ⟨a, b⟩ := c
    have ha : a < n := h' (a, b) (by simp)
    have hne : a ≠ k := by omega
    rw [Memory.read_cons, if_neg hne]
    exact ih (fun c hc => h' c (List.mem_cons_of_mem _ hc))

/-! ## Windows -/

/-- The one law of a window write (20_memory.md R51). -/
theorem read_laneWrite (m : Memory) (k : Nat) (w : Width) (v : Word) (j : Nat) :
    (laneWrite m k w v).read j =
      if k ≤ j ∧ j < k + w.bytes then some (v.extractLsb' (8 * (j - k)) 8) else m.read j := by
  by_cases h : k ≤ j ∧ j < k + w.bytes
  · rw [if_pos h]
    obtain ⟨i, rfl⟩ : ∃ i, j = k + i := ⟨j - k, by omega⟩
    have hi : i < w.bytes := by omega
    cases w <;> simp only [Width.bytes] at hi <;> interval_cases i <;> simp [laneWrite, Memory.read_set]
  · rw [if_neg h]
    cases w <;> simp only [Width.bytes] at h <;> simp only [laneWrite, Memory.read_set] <;>
      split_ifs <;> first | rfl | omega

/-- A window write inside the buffer keeps the canonical form and the bounds. -/
theorem Memory.Within.laneWrite {m : Memory} {n k : Nat} {w : Width} (h : m.Within n) (hk : k + w.bytes ≤ n)
    (v : Word) : (laneWrite m k w v).Within n := by
  cases w <;> simp only [Width.bytes] at hk
  · exact h.set (by omega) _
  · exact (h.set (by omega) _).set (by omega) _
  · exact (((h.set (by omega) _).set (by omega) _).set (by omega) _).set (by omega) _

/-- A window read answers nothing exactly where one of its bytes is unwritten (R67). -/
theorem laneRead_eq_none (m : Memory) (k : Nat) (w : Width) :
    laneRead m k w = none ↔ ∃ i < w.bytes, m.read (k + i) = none := by
  cases w with
  | byte =>
    simp only [laneRead, Width.bytes, Option.map_eq_none_iff]
    exact ⟨fun h => ⟨0, by omega, h⟩, fun ⟨i, hi, h⟩ => by
      interval_cases i
      exact h⟩
  | half =>
    have : laneRead m k .half = none ↔ m.read k = none ∨ m.read (k + 1) = none := by
      cases h0 : m.read k <;> cases h1 : m.read (k + 1) <;> simp [laneRead, h0, h1]
    rw [this]
    constructor
    · rintro (h | h)
      · exact ⟨0, by decide, h⟩
      · exact ⟨1, by decide, h⟩
    · rintro ⟨i, hi, h⟩
      simp only [Width.bytes] at hi
      interval_cases i
      · exact .inl h
      · exact .inr h
  | word =>
    have : laneRead m k .word = none ↔
        m.read k = none ∨ m.read (k + 1) = none ∨ m.read (k + 2) = none ∨ m.read (k + 3) = none := by
      cases h0 : m.read k <;> cases h1 : m.read (k + 1) <;> cases h2 : m.read (k + 2) <;>
        cases h3 : m.read (k + 3) <;> simp [laneRead, h0, h1, h2, h3]
    rw [this]
    constructor
    · rintro (h | h | h | h)
      · exact ⟨0, by decide, h⟩
      · exact ⟨1, by decide, h⟩
      · exact ⟨2, by decide, h⟩
      · exact ⟨3, by decide, h⟩
    · rintro ⟨i, hi, h⟩
      simp only [Width.bytes] at hi
      interval_cases i
      · exact .inl h
      · exact .inr (.inl h)
      · exact .inr (.inr (.inl h))
      · exact .inr (.inr (.inr h))

end Sys2Proof.Machine
end

