-- ==== Sys2Proof/Laws/Depacker.lean ====
section
/-! SUPPORT. The laws of the depacker: what each function of 30_encoding.md R82 answers on bytes that are written, and
when it answers nothing. -/

namespace Sys2Proof.Machine

/-! ## Bytes in a row -/

theorem Memory.Holds.read {m : Memory} {a : Nat} {bs : List Byte} (h : m.Holds a bs) {j : Nat} {b : Byte}
    (hj : bs[j]? = some b) : m.read (a + j) = some b := h j b hj

theorem Memory.holds_nil (m : Memory) (a : Nat) : m.Holds a [] := by
  intro j b h
  simp at h

/-- Bytes in a row, one at a time. -/
theorem Memory.holds_cons (m : Memory) (a : Nat) (b : Byte) (bs : List Byte) :
    m.Holds a (b :: bs) ↔ m.read a = some b ∧ m.Holds (a + 1) bs := by
  constructor
  · intro h
    refine ⟨h 0 b rfl, fun j c hj => ?_⟩
    have := h (j + 1) c (by simpa using hj)
    rwa [Nat.add_assoc, Nat.add_comm 1 j]
  · rintro ⟨h0, h⟩ j c hj
    cases j with
    | zero => simp only [List.getElem?_cons_zero, Option.some.injEq] at hj; subst hj; exact h0
    | succ j =>
      have := h j c (by simpa using hj)
      rwa [Nat.add_assoc, Nat.add_comm 1 j] at this

theorem Memory.holds_append (m : Memory) (a : Nat) (xs ys : List Byte) :
    m.Holds a (xs ++ ys) ↔ m.Holds a xs ∧ m.Holds (a + xs.length) ys := by
  induction xs generalizing a with
  | nil => simp [Memory.holds_nil]
  | cons x xs ih =>
    rw [List.cons_append, Memory.holds_cons, Memory.holds_cons, ih, List.length_cons,
      Nat.add_assoc a 1, Nat.add_comm 1 xs.length, and_assoc]

/-- A 16-bit field whose bytes stand in the buffer is read as its value. -/
theorem Memory.read16_of_holds {m : Memory} {a : Nat} {v : Half} (h : m.Holds a (bytes16 v)) : m.read16 a = some v := by
  rw [Memory.read16_of_bytes (a := a) (h.read (j := 0) rfl) (h.read (j := 1) rfl), join8_extract]

/-- A 32-bit field whose bytes stand in the buffer is read as its value. -/
theorem Memory.read32_of_holds {m : Memory} {a : Nat} {v : Word} (h : m.Holds a (bytes32 v)) : m.read32 a = some v := by
  rw [Memory.read32_of_bytes (a := a) (h.read (j := 0) rfl) (h.read (j := 1) rfl) (h.read (j := 2) rfl)
    (h.read (j := 3) rfl), join_bytes32]

/-- A 64-bit field whose bytes stand in the buffer is read as its value. -/
theorem Memory.read64_of_holds {m : Memory} {a : Nat} {v : DWord} (h : m.Holds a (bytes64 v)) :
    m.read64 a = some v := by
  rw [bytes64, Memory.holds_append] at h
  have h1 := Memory.read32_of_holds h.1
  have h2 := Memory.read32_of_holds h.2
  simp only [bytes32, List.length_cons, List.length_nil] at h2
  simp [Memory.read64, h1, h2, join32_extract]

/-- The byte order of MemWrite(a, 2, v) is that of `bytes16`. -/
theorem Memory.holds_write16 (m : Memory) (a : Nat) (v : Half) : (m.write16 a v).Holds a (bytes16 v) := by
  simp [bytes16, Memory.holds_cons, Memory.holds_nil, Memory.read_write16]

/-- The byte order of MemWrite(a, 4, v) is that of `bytes32`. -/
theorem Memory.holds_write32 (m : Memory) (a : Nat) (v : Word) : (m.write32 a v).Holds a (bytes32 v) := by
  simp [bytes32, Memory.holds_cons, Memory.holds_nil, Memory.read_write32, Nat.add_assoc]

/-! ## Byte 4 -/

theorem modeOf_eq_zero (b : Byte) : modeOf b = 0#1 ↔ b.toNat < 128 := by
  have : ∀ b : Byte, modeOf b = 0#1 ↔ b.toNat < 128 := by decide
  exact this b

theorem modeOf_toNat (b : Byte) : (modeOf b).toNat = b.toNat / 128 := by
  have : ∀ b : Byte, (modeOf b).toNat = b.toNat / 128 := by decide
  exact this b

theorem contentTypeOf_toNat (b : Byte) : (contentTypeOf b).toNat = b.toNat % 128 := by
  have : ∀ b : Byte, (contentTypeOf b).toNat = b.toNat % 128 := by decide
  exact this b

/-- DOFF of the mode bit of byte 4 (30_encoding.md R75). -/
theorem dataOffset_modeOf (b : Byte) : dataOffset (modeOf b) = payloadAt b := by
  by_cases h : b.toNat < 128
  · simp [dataOffset, headerSize, payloadAt, h, (modeOf_eq_zero b).2 h]
  · have : modeOf b ≠ 0#1 := fun h' => h ((modeOf_eq_zero b).1 h')
    simp [dataOffset, headerSize, payloadAt, h, this]

section
variable {pb : Memory} {b4 : Byte}

theorem pbMode_of_read (h : pb.read 4 = some b4) : pbMode pb = some (modeOf b4) := by simp [pbMode, h]

theorem pbContentType_of_read (h : pb.read 4 = some b4) : pbContentType pb = some (contentTypeOf b4) := by
  simp [pbContentType, h]

theorem pbMode_of_unwritten (h : pb.Unwritten 4) : pbMode pb = none := by
  rw [Memory.Unwritten] at h
  simp [pbMode, h]

/-- A leader field starts at DOFF + o. -/
theorem pbLeader16_of_read (h : pb.read 4 = some b4) (o : Nat) :
    pbLeader16 pb o = pb.read16 (payloadAt b4 + o) := by
  simp [pbLeader16, pbMode_of_read h, dataOffset_modeOf]

theorem pbLeader32_of_read (h : pb.read 4 = some b4) (o : Nat) :
    pbLeader32 pb o = pb.read32 (payloadAt b4 + o) := by
  simp [pbLeader32, pbMode_of_read h, dataOffset_modeOf]

/-- The ticks are one 64-bit field, since the high word comes first (42_leader_timestamp.md R119). -/
theorem pbTicks_of_read (h : pb.read 4 = some b4) : pbTicks pb = pb.read64 (payloadAt b4 + 4) := by
  rw [pbTicks, pbLeader32_of_read h, pbLeader32_of_read h]
  rfl

theorem pbPacketId_compact (h : pb.read 4 = some b4) (hm : b4.toNat < 128) :
    pbPacketId pb = (pb.read32 4).map (fun p => (p.extractLsb' 0 24).setWidth 32) := by
  simp [pbPacketId, pbMode_of_read h, (modeOf_eq_zero b4).2 hm, pbInfo]

theorem pbPacketId_extended (h : pb.read 4 = some b4) (hm : 128 ≤ b4.toNat) : pbPacketId pb = pb.read32 16 := by
  have : modeOf b4 ≠ 0#1 := fun h' => by have := (modeOf_eq_zero b4).1 h'; omega
  simp [pbPacketId, pbMode_of_read h, this]

theorem pbFrameId_compact (h : pb.read 4 = some b4) (hm : b4.toNat < 128) :
    pbFrameId pb = (pb.read16 2).map (fun f => f.setWidth 64) := by
  simp [pbFrameId, pbMode_of_read h, (modeOf_eq_zero b4).2 hm]

theorem pbFrameId_extended (h : pb.read 4 = some b4) (hm : 128 ≤ b4.toNat) : pbFrameId pb = pb.read64 8 := by
  have : modeOf b4 ≠ 0#1 := fun h' => by have := (modeOf_eq_zero b4).1 h'; omega
  simp [pbFrameId, pbMode_of_read h, this]

end

/-! ## Values -/

/-- The scaler computes R120's formula on numbers. -/
theorem tsToNs_eq (t f : DWord) : tsToNs t f = BitVec.ofNat 64 (tsNsSpec t.toNat f.toNat) := by
  by_cases h : f = 0#64
  · subst h
    rw [tsToNs, if_pos rfl, tsNsSpec, if_pos BitVec.toNat_zero]
  · have h0 : f.toNat ≠ 0 := fun h0 => h (BitVec.eq_of_toNat_eq (by simpa using h0))
    apply BitVec.eq_of_toNat_eq
    rw [tsToNs, if_neg h, tsNsSpec, if_neg h0, BitVec.toNat_add, BitVec.toNat_mul, BitVec.toNat_udiv,
      BitVec.toNat_udiv, BitVec.toNat_mul, BitVec.toNat_umod, BitVec.toNat_ofNat, BitVec.toNat_ofNat, Nat.mod_mod]

/-- The map follows the list of known codes (30_encoding.md R95). -/
theorem bufferKind_eq (p : Half) : (bufferKind p).setWidth 64 = BitVec.ofNat 64 (kindSpec p.toNat) := by
  have hk : payloadKnown p = true ↔
      p.toNat ∈ [0x0001, 0x0002, 0x0003, 0x0004, 0x0005, 0x0006, 0x0007, 0x0008, 0x0009, 0x4001] := by
    simp [payloadKnown]
    omega
  by_cases h : payloadKnown p = true
  · apply BitVec.eq_of_toNat_eq
    have := p.isLt
    simp only [bufferKind, h, kindSpec, hk.1 h, if_true]
    simp
  · simp only [bufferKind, kindSpec, h, mt hk.2 h]
    simp [kindUnknown]

end Sys2Proof.Machine
end

