-- ==== Sys2Proof/Laws/State.lean ====
section
/-! SUPPORT. One lemma per field per update of the state, each true by rfl, so that no later proof unfolds a record
update. -/

namespace Sys2Proof.Machine

/-! ## setResult -/

@[simp] theorem State.setResult_params (s : State) (v : DWord) : (s.setResult v).params = s.params := rfl
@[simp] theorem State.setResult_status (s : State) (v : DWord) : (s.setResult v).status = s.status := rfl
@[simp] theorem State.setResult_pktLen (s : State) (v : DWord) : (s.setResult v).pktLen = s.pktLen := rfl
@[simp] theorem State.setResult_encCap (s : State) (v : DWord) : (s.setResult v).encCap = s.encCap := rfl
@[simp] theorem State.setResult_tickFreqLo (s : State) (v : DWord) : (s.setResult v).tickFreqLo = s.tickFreqLo := rfl
@[simp] theorem State.setResult_tickFreqHi (s : State) (v : DWord) : (s.setResult v).tickFreqHi = s.tickFreqHi := rfl
@[simp] theorem State.setResult_argLo (s : State) (v : DWord) : (s.setResult v).argLo = s.argLo := rfl
@[simp] theorem State.setResult_argHi (s : State) (v : DWord) : (s.setResult v).argHi = s.argHi := rfl
@[simp] theorem State.setResult_resultLo (s : State) (v : DWord) : (s.setResult v).resultLo = v.extractLsb' 0 32 := rfl
@[simp] theorem State.setResult_resultHi (s : State) (v : DWord) : (s.setResult v).resultHi = v.extractLsb' 32 32 := rfl
@[simp] theorem State.setResult_inFrameId (s : State) (v : DWord) : (s.setResult v).inFrameId = s.inFrameId := rfl
@[simp] theorem State.setResult_inPacketId (s : State) (v : DWord) : (s.setResult v).inPacketId = s.inPacketId := rfl
@[simp] theorem State.setResult_inTsLo (s : State) (v : DWord) : (s.setResult v).inTsLo = s.inTsLo := rfl
@[simp] theorem State.setResult_inTsHi (s : State) (v : DWord) : (s.setResult v).inTsHi = s.inTsHi := rfl
@[simp] theorem State.setResult_inPixelFormat (s : State) (v : DWord) : (s.setResult v).inPixelFormat = s.inPixelFormat := rfl
@[simp] theorem State.setResult_inWidth (s : State) (v : DWord) : (s.setResult v).inWidth = s.inWidth := rfl
@[simp] theorem State.setResult_inHeight (s : State) (v : DWord) : (s.setResult v).inHeight = s.inHeight := rfl
@[simp] theorem State.setResult_inXOffset (s : State) (v : DWord) : (s.setResult v).inXOffset = s.inXOffset := rfl
@[simp] theorem State.setResult_inYOffset (s : State) (v : DWord) : (s.setResult v).inYOffset = s.inYOffset := rfl
@[simp] theorem State.setResult_inDataLen (s : State) (v : DWord) : (s.setResult v).inDataLen = s.inDataLen := rfl
@[simp] theorem State.setResult_pb (s : State) (v : DWord) : (s.setResult v).pb = s.pb := rfl
@[simp] theorem State.setResult_sb (s : State) (v : DWord) : (s.setResult v).sb = s.sb := rfl
@[simp] theorem State.setResult_resetAsserted (s : State) (v : DWord) : (s.setResult v).resetAsserted = s.resetAsserted := rfl
@[simp] theorem State.setResult_pending (s : State) (v : DWord) : (s.setResult v).pending = s.pending := rfl
@[simp] theorem State.setResult_responses (s : State) (v : DWord) : (s.setResult v).responses = s.responses := rfl

/-! ## setPb -/

@[simp] theorem State.setPb_params (s : State) (m : Memory) : (s.setPb m).params = s.params := rfl
@[simp] theorem State.setPb_status (s : State) (m : Memory) : (s.setPb m).status = s.status := rfl
@[simp] theorem State.setPb_pktLen (s : State) (m : Memory) : (s.setPb m).pktLen = s.pktLen := rfl
@[simp] theorem State.setPb_encCap (s : State) (m : Memory) : (s.setPb m).encCap = s.encCap := rfl
@[simp] theorem State.setPb_tickFreqLo (s : State) (m : Memory) : (s.setPb m).tickFreqLo = s.tickFreqLo := rfl
@[simp] theorem State.setPb_tickFreqHi (s : State) (m : Memory) : (s.setPb m).tickFreqHi = s.tickFreqHi := rfl
@[simp] theorem State.setPb_argLo (s : State) (m : Memory) : (s.setPb m).argLo = s.argLo := rfl
@[simp] theorem State.setPb_argHi (s : State) (m : Memory) : (s.setPb m).argHi = s.argHi := rfl
@[simp] theorem State.setPb_resultLo (s : State) (m : Memory) : (s.setPb m).resultLo = s.resultLo := rfl
@[simp] theorem State.setPb_resultHi (s : State) (m : Memory) : (s.setPb m).resultHi = s.resultHi := rfl
@[simp] theorem State.setPb_inFrameId (s : State) (m : Memory) : (s.setPb m).inFrameId = s.inFrameId := rfl
@[simp] theorem State.setPb_inPacketId (s : State) (m : Memory) : (s.setPb m).inPacketId = s.inPacketId := rfl
@[simp] theorem State.setPb_inTsLo (s : State) (m : Memory) : (s.setPb m).inTsLo = s.inTsLo := rfl
@[simp] theorem State.setPb_inTsHi (s : State) (m : Memory) : (s.setPb m).inTsHi = s.inTsHi := rfl
@[simp] theorem State.setPb_inPixelFormat (s : State) (m : Memory) : (s.setPb m).inPixelFormat = s.inPixelFormat := rfl
@[simp] theorem State.setPb_inWidth (s : State) (m : Memory) : (s.setPb m).inWidth = s.inWidth := rfl
@[simp] theorem State.setPb_inHeight (s : State) (m : Memory) : (s.setPb m).inHeight = s.inHeight := rfl
@[simp] theorem State.setPb_inXOffset (s : State) (m : Memory) : (s.setPb m).inXOffset = s.inXOffset := rfl
@[simp] theorem State.setPb_inYOffset (s : State) (m : Memory) : (s.setPb m).inYOffset = s.inYOffset := rfl
@[simp] theorem State.setPb_inDataLen (s : State) (m : Memory) : (s.setPb m).inDataLen = s.inDataLen := rfl
@[simp] theorem State.setPb_pb (s : State) (m : Memory) : (s.setPb m).pb = m := rfl
@[simp] theorem State.setPb_sb (s : State) (m : Memory) : (s.setPb m).sb = s.sb := rfl
@[simp] theorem State.setPb_resetAsserted (s : State) (m : Memory) : (s.setPb m).resetAsserted = s.resetAsserted := rfl
@[simp] theorem State.setPb_pending (s : State) (m : Memory) : (s.setPb m).pending = s.pending := rfl
@[simp] theorem State.setPb_responses (s : State) (m : Memory) : (s.setPb m).responses = s.responses := rfl

/-! ## finish -/

@[simp] theorem State.finish_params (s : State) : s.finish.params = s.params := rfl
@[simp] theorem State.finish_status (s : State) : s.finish.status = statusFinish s.status := rfl
@[simp] theorem State.finish_pktLen (s : State) : s.finish.pktLen = s.pktLen := rfl
@[simp] theorem State.finish_encCap (s : State) : s.finish.encCap = s.encCap := rfl
@[simp] theorem State.finish_tickFreqLo (s : State) : s.finish.tickFreqLo = s.tickFreqLo := rfl
@[simp] theorem State.finish_tickFreqHi (s : State) : s.finish.tickFreqHi = s.tickFreqHi := rfl
@[simp] theorem State.finish_argLo (s : State) : s.finish.argLo = s.argLo := rfl
@[simp] theorem State.finish_argHi (s : State) : s.finish.argHi = s.argHi := rfl
@[simp] theorem State.finish_resultLo (s : State) : s.finish.resultLo = s.resultLo := rfl
@[simp] theorem State.finish_resultHi (s : State) : s.finish.resultHi = s.resultHi := rfl
@[simp] theorem State.finish_inFrameId (s : State) : s.finish.inFrameId = s.inFrameId := rfl
@[simp] theorem State.finish_inPacketId (s : State) : s.finish.inPacketId = s.inPacketId := rfl
@[simp] theorem State.finish_inTsLo (s : State) : s.finish.inTsLo = s.inTsLo := rfl
@[simp] theorem State.finish_inTsHi (s : State) : s.finish.inTsHi = s.inTsHi := rfl
@[simp] theorem State.finish_inPixelFormat (s : State) : s.finish.inPixelFormat = s.inPixelFormat := rfl
@[simp] theorem State.finish_inWidth (s : State) : s.finish.inWidth = s.inWidth := rfl
@[simp] theorem State.finish_inHeight (s : State) : s.finish.inHeight = s.inHeight := rfl
@[simp] theorem State.finish_inXOffset (s : State) : s.finish.inXOffset = s.inXOffset := rfl
@[simp] theorem State.finish_inYOffset (s : State) : s.finish.inYOffset = s.inYOffset := rfl
@[simp] theorem State.finish_inDataLen (s : State) : s.finish.inDataLen = s.inDataLen := rfl
@[simp] theorem State.finish_pb (s : State) : s.finish.pb = s.pb := rfl
@[simp] theorem State.finish_sb (s : State) : s.finish.sb = s.sb := rfl
@[simp] theorem State.finish_resetAsserted (s : State) : s.finish.resetAsserted = s.resetAsserted := rfl
@[simp] theorem State.finish_pending (s : State) : s.finish.pending = s.pending := rfl
@[simp] theorem State.finish_responses (s : State) : s.finish.responses = s.responses := rfl

/-! ## raiseErr -/

@[simp] theorem State.raiseErr_params (s : State) (e : CmdError) : (s.raiseErr e).params = s.params := rfl
@[simp] theorem State.raiseErr_status (s : State) (e : CmdError) : (s.raiseErr e).status = statusRaise s.status e := rfl
@[simp] theorem State.raiseErr_pktLen (s : State) (e : CmdError) : (s.raiseErr e).pktLen = s.pktLen := rfl
@[simp] theorem State.raiseErr_encCap (s : State) (e : CmdError) : (s.raiseErr e).encCap = s.encCap := rfl
@[simp] theorem State.raiseErr_tickFreqLo (s : State) (e : CmdError) : (s.raiseErr e).tickFreqLo = s.tickFreqLo := rfl
@[simp] theorem State.raiseErr_tickFreqHi (s : State) (e : CmdError) : (s.raiseErr e).tickFreqHi = s.tickFreqHi := rfl
@[simp] theorem State.raiseErr_argLo (s : State) (e : CmdError) : (s.raiseErr e).argLo = s.argLo := rfl
@[simp] theorem State.raiseErr_argHi (s : State) (e : CmdError) : (s.raiseErr e).argHi = s.argHi := rfl
@[simp] theorem State.raiseErr_resultLo (s : State) (e : CmdError) : (s.raiseErr e).resultLo = s.resultLo := rfl
@[simp] theorem State.raiseErr_resultHi (s : State) (e : CmdError) : (s.raiseErr e).resultHi = s.resultHi := rfl
@[simp] theorem State.raiseErr_inFrameId (s : State) (e : CmdError) : (s.raiseErr e).inFrameId = s.inFrameId := rfl
@[simp] theorem State.raiseErr_inPacketId (s : State) (e : CmdError) : (s.raiseErr e).inPacketId = s.inPacketId := rfl
@[simp] theorem State.raiseErr_inTsLo (s : State) (e : CmdError) : (s.raiseErr e).inTsLo = s.inTsLo := rfl
@[simp] theorem State.raiseErr_inTsHi (s : State) (e : CmdError) : (s.raiseErr e).inTsHi = s.inTsHi := rfl
@[simp] theorem State.raiseErr_inPixelFormat (s : State) (e : CmdError) : (s.raiseErr e).inPixelFormat = s.inPixelFormat := rfl
@[simp] theorem State.raiseErr_inWidth (s : State) (e : CmdError) : (s.raiseErr e).inWidth = s.inWidth := rfl
@[simp] theorem State.raiseErr_inHeight (s : State) (e : CmdError) : (s.raiseErr e).inHeight = s.inHeight := rfl
@[simp] theorem State.raiseErr_inXOffset (s : State) (e : CmdError) : (s.raiseErr e).inXOffset = s.inXOffset := rfl
@[simp] theorem State.raiseErr_inYOffset (s : State) (e : CmdError) : (s.raiseErr e).inYOffset = s.inYOffset := rfl
@[simp] theorem State.raiseErr_inDataLen (s : State) (e : CmdError) : (s.raiseErr e).inDataLen = s.inDataLen := rfl
@[simp] theorem State.raiseErr_pb (s : State) (e : CmdError) : (s.raiseErr e).pb = s.pb := rfl
@[simp] theorem State.raiseErr_sb (s : State) (e : CmdError) : (s.raiseErr e).sb = s.sb := rfl
@[simp] theorem State.raiseErr_resetAsserted (s : State) (e : CmdError) : (s.raiseErr e).resetAsserted = s.resetAsserted := rfl
@[simp] theorem State.raiseErr_pending (s : State) (e : CmdError) : (s.raiseErr e).pending = s.pending := rfl
@[simp] theorem State.raiseErr_responses (s : State) (e : CmdError) : (s.raiseErr e).responses = s.responses := rfl

/-! ## failWith -/

@[simp] theorem State.failWith_params (s : State) (e : CmdError) : (s.failWith e).params = s.params := rfl
@[simp] theorem State.failWith_status (s : State) (e : CmdError) : (s.failWith e).status = statusRaise s.status e := rfl
@[simp] theorem State.failWith_pktLen (s : State) (e : CmdError) : (s.failWith e).pktLen = s.pktLen := rfl
@[simp] theorem State.failWith_encCap (s : State) (e : CmdError) : (s.failWith e).encCap = s.encCap := rfl
@[simp] theorem State.failWith_tickFreqLo (s : State) (e : CmdError) : (s.failWith e).tickFreqLo = s.tickFreqLo := rfl
@[simp] theorem State.failWith_tickFreqHi (s : State) (e : CmdError) : (s.failWith e).tickFreqHi = s.tickFreqHi := rfl
@[simp] theorem State.failWith_argLo (s : State) (e : CmdError) : (s.failWith e).argLo = s.argLo := rfl
@[simp] theorem State.failWith_argHi (s : State) (e : CmdError) : (s.failWith e).argHi = s.argHi := rfl
@[simp] theorem State.failWith_resultLo (s : State) (e : CmdError) : (s.failWith e).resultLo = (0#64).extractLsb' 0 32 := rfl
@[simp] theorem State.failWith_resultHi (s : State) (e : CmdError) : (s.failWith e).resultHi = (0#64).extractLsb' 32 32 := rfl
@[simp] theorem State.failWith_inFrameId (s : State) (e : CmdError) : (s.failWith e).inFrameId = s.inFrameId := rfl
@[simp] theorem State.failWith_inPacketId (s : State) (e : CmdError) : (s.failWith e).inPacketId = s.inPacketId := rfl
@[simp] theorem State.failWith_inTsLo (s : State) (e : CmdError) : (s.failWith e).inTsLo = s.inTsLo := rfl
@[simp] theorem State.failWith_inTsHi (s : State) (e : CmdError) : (s.failWith e).inTsHi = s.inTsHi := rfl
@[simp] theorem State.failWith_inPixelFormat (s : State) (e : CmdError) : (s.failWith e).inPixelFormat = s.inPixelFormat := rfl
@[simp] theorem State.failWith_inWidth (s : State) (e : CmdError) : (s.failWith e).inWidth = s.inWidth := rfl
@[simp] theorem State.failWith_inHeight (s : State) (e : CmdError) : (s.failWith e).inHeight = s.inHeight := rfl
@[simp] theorem State.failWith_inXOffset (s : State) (e : CmdError) : (s.failWith e).inXOffset = s.inXOffset := rfl
@[simp] theorem State.failWith_inYOffset (s : State) (e : CmdError) : (s.failWith e).inYOffset = s.inYOffset := rfl
@[simp] theorem State.failWith_inDataLen (s : State) (e : CmdError) : (s.failWith e).inDataLen = s.inDataLen := rfl
@[simp] theorem State.failWith_pb (s : State) (e : CmdError) : (s.failWith e).pb = s.pb := rfl
@[simp] theorem State.failWith_sb (s : State) (e : CmdError) : (s.failWith e).sb = s.sb := rfl
@[simp] theorem State.failWith_resetAsserted (s : State) (e : CmdError) : (s.failWith e).resetAsserted = s.resetAsserted := rfl
@[simp] theorem State.failWith_pending (s : State) (e : CmdError) : (s.failWith e).pending = s.pending := rfl
@[simp] theorem State.failWith_responses (s : State) (e : CmdError) : (s.failWith e).responses = s.responses := rfl

/-! ## answer -/

@[simp] theorem State.answer_params (s : State) (v : DWord) : (s.answer v).params = s.params := rfl
@[simp] theorem State.answer_status (s : State) (v : DWord) : (s.answer v).status = statusFinish s.status := rfl
@[simp] theorem State.answer_pktLen (s : State) (v : DWord) : (s.answer v).pktLen = s.pktLen := rfl
@[simp] theorem State.answer_encCap (s : State) (v : DWord) : (s.answer v).encCap = s.encCap := rfl
@[simp] theorem State.answer_tickFreqLo (s : State) (v : DWord) : (s.answer v).tickFreqLo = s.tickFreqLo := rfl
@[simp] theorem State.answer_tickFreqHi (s : State) (v : DWord) : (s.answer v).tickFreqHi = s.tickFreqHi := rfl
@[simp] theorem State.answer_argLo (s : State) (v : DWord) : (s.answer v).argLo = s.argLo := rfl
@[simp] theorem State.answer_argHi (s : State) (v : DWord) : (s.answer v).argHi = s.argHi := rfl
@[simp] theorem State.answer_resultLo (s : State) (v : DWord) : (s.answer v).resultLo = v.extractLsb' 0 32 := rfl
@[simp] theorem State.answer_resultHi (s : State) (v : DWord) : (s.answer v).resultHi = v.extractLsb' 32 32 := rfl
@[simp] theorem State.answer_inFrameId (s : State) (v : DWord) : (s.answer v).inFrameId = s.inFrameId := rfl
@[simp] theorem State.answer_inPacketId (s : State) (v : DWord) : (s.answer v).inPacketId = s.inPacketId := rfl
@[simp] theorem State.answer_inTsLo (s : State) (v : DWord) : (s.answer v).inTsLo = s.inTsLo := rfl
@[simp] theorem State.answer_inTsHi (s : State) (v : DWord) : (s.answer v).inTsHi = s.inTsHi := rfl
@[simp] theorem State.answer_inPixelFormat (s : State) (v : DWord) : (s.answer v).inPixelFormat = s.inPixelFormat := rfl
@[simp] theorem State.answer_inWidth (s : State) (v : DWord) : (s.answer v).inWidth = s.inWidth := rfl
@[simp] theorem State.answer_inHeight (s : State) (v : DWord) : (s.answer v).inHeight = s.inHeight := rfl
@[simp] theorem State.answer_inXOffset (s : State) (v : DWord) : (s.answer v).inXOffset = s.inXOffset := rfl
@[simp] theorem State.answer_inYOffset (s : State) (v : DWord) : (s.answer v).inYOffset = s.inYOffset := rfl
@[simp] theorem State.answer_inDataLen (s : State) (v : DWord) : (s.answer v).inDataLen = s.inDataLen := rfl
@[simp] theorem State.answer_pb (s : State) (v : DWord) : (s.answer v).pb = s.pb := rfl
@[simp] theorem State.answer_sb (s : State) (v : DWord) : (s.answer v).sb = s.sb := rfl
@[simp] theorem State.answer_resetAsserted (s : State) (v : DWord) : (s.answer v).resetAsserted = s.resetAsserted := rfl
@[simp] theorem State.answer_pending (s : State) (v : DWord) : (s.answer v).pending = s.pending := rfl
@[simp] theorem State.answer_responses (s : State) (v : DWord) : (s.answer v).responses = s.responses := rfl

/-! ## illegalCommand -/

@[simp] theorem State.illegalCommand_params (s : State) : s.illegalCommand.params = s.params := rfl
@[simp] theorem State.illegalCommand_status (s : State) : s.illegalCommand.status = statusRaise s.status .illegal := rfl
@[simp] theorem State.illegalCommand_pktLen (s : State) : s.illegalCommand.pktLen = s.pktLen := rfl
@[simp] theorem State.illegalCommand_encCap (s : State) : s.illegalCommand.encCap = s.encCap := rfl
@[simp] theorem State.illegalCommand_tickFreqLo (s : State) : s.illegalCommand.tickFreqLo = s.tickFreqLo := rfl
@[simp] theorem State.illegalCommand_tickFreqHi (s : State) : s.illegalCommand.tickFreqHi = s.tickFreqHi := rfl
@[simp] theorem State.illegalCommand_argLo (s : State) : s.illegalCommand.argLo = s.argLo := rfl
@[simp] theorem State.illegalCommand_argHi (s : State) : s.illegalCommand.argHi = s.argHi := rfl
@[simp] theorem State.illegalCommand_resultLo (s : State) : s.illegalCommand.resultLo = s.resultLo := rfl
@[simp] theorem State.illegalCommand_resultHi (s : State) : s.illegalCommand.resultHi = s.resultHi := rfl
@[simp] theorem State.illegalCommand_inFrameId (s : State) : s.illegalCommand.inFrameId = s.inFrameId := rfl
@[simp] theorem State.illegalCommand_inPacketId (s : State) : s.illegalCommand.inPacketId = s.inPacketId := rfl
@[simp] theorem State.illegalCommand_inTsLo (s : State) : s.illegalCommand.inTsLo = s.inTsLo := rfl
@[simp] theorem State.illegalCommand_inTsHi (s : State) : s.illegalCommand.inTsHi = s.inTsHi := rfl
@[simp] theorem State.illegalCommand_inPixelFormat (s : State) : s.illegalCommand.inPixelFormat = s.inPixelFormat := rfl
@[simp] theorem State.illegalCommand_inWidth (s : State) : s.illegalCommand.inWidth = s.inWidth := rfl
@[simp] theorem State.illegalCommand_inHeight (s : State) : s.illegalCommand.inHeight = s.inHeight := rfl
@[simp] theorem State.illegalCommand_inXOffset (s : State) : s.illegalCommand.inXOffset = s.inXOffset := rfl
@[simp] theorem State.illegalCommand_inYOffset (s : State) : s.illegalCommand.inYOffset = s.inYOffset := rfl
@[simp] theorem State.illegalCommand_inDataLen (s : State) : s.illegalCommand.inDataLen = s.inDataLen := rfl
@[simp] theorem State.illegalCommand_pb (s : State) : s.illegalCommand.pb = s.pb := rfl
@[simp] theorem State.illegalCommand_sb (s : State) : s.illegalCommand.sb = s.sb := rfl
@[simp] theorem State.illegalCommand_resetAsserted (s : State) : s.illegalCommand.resetAsserted = s.resetAsserted := rfl
@[simp] theorem State.illegalCommand_pending (s : State) : s.illegalCommand.pending = s.pending := rfl
@[simp] theorem State.illegalCommand_responses (s : State) : s.illegalCommand.responses = s.responses := rfl

/-! ## busErr -/

@[simp] theorem State.busErr_params (s : State) : s.busErr.params = s.params := rfl
@[simp] theorem State.busErr_status (s : State) : s.busErr.status = statusBus s.status := rfl
@[simp] theorem State.busErr_pktLen (s : State) : s.busErr.pktLen = s.pktLen := rfl
@[simp] theorem State.busErr_encCap (s : State) : s.busErr.encCap = s.encCap := rfl
@[simp] theorem State.busErr_tickFreqLo (s : State) : s.busErr.tickFreqLo = s.tickFreqLo := rfl
@[simp] theorem State.busErr_tickFreqHi (s : State) : s.busErr.tickFreqHi = s.tickFreqHi := rfl
@[simp] theorem State.busErr_argLo (s : State) : s.busErr.argLo = s.argLo := rfl
@[simp] theorem State.busErr_argHi (s : State) : s.busErr.argHi = s.argHi := rfl
@[simp] theorem State.busErr_resultLo (s : State) : s.busErr.resultLo = s.resultLo := rfl
@[simp] theorem State.busErr_resultHi (s : State) : s.busErr.resultHi = s.resultHi := rfl
@[simp] theorem State.busErr_inFrameId (s : State) : s.busErr.inFrameId = s.inFrameId := rfl
@[simp] theorem State.busErr_inPacketId (s : State) : s.busErr.inPacketId = s.inPacketId := rfl
@[simp] theorem State.busErr_inTsLo (s : State) : s.busErr.inTsLo = s.inTsLo := rfl
@[simp] theorem State.busErr_inTsHi (s : State) : s.busErr.inTsHi = s.inTsHi := rfl
@[simp] theorem State.busErr_inPixelFormat (s : State) : s.busErr.inPixelFormat = s.inPixelFormat := rfl
@[simp] theorem State.busErr_inWidth (s : State) : s.busErr.inWidth = s.inWidth := rfl
@[simp] theorem State.busErr_inHeight (s : State) : s.busErr.inHeight = s.inHeight := rfl
@[simp] theorem State.busErr_inXOffset (s : State) : s.busErr.inXOffset = s.inXOffset := rfl
@[simp] theorem State.busErr_inYOffset (s : State) : s.busErr.inYOffset = s.inYOffset := rfl
@[simp] theorem State.busErr_inDataLen (s : State) : s.busErr.inDataLen = s.inDataLen := rfl
@[simp] theorem State.busErr_pb (s : State) : s.busErr.pb = s.pb := rfl
@[simp] theorem State.busErr_sb (s : State) : s.busErr.sb = s.sb := rfl
@[simp] theorem State.busErr_resetAsserted (s : State) : s.busErr.resetAsserted = s.resetAsserted := rfl
@[simp] theorem State.busErr_pending (s : State) : s.busErr.pending = s.pending := rfl
@[simp] theorem State.busErr_responses (s : State) : s.busErr.responses = s.responses := rfl

/-! ## respond -/

@[simp] theorem State.respond_params (s : State) (r : Response) : (s.respond r).params = s.params := rfl
@[simp] theorem State.respond_status (s : State) (r : Response) : (s.respond r).status = s.status := rfl
@[simp] theorem State.respond_pktLen (s : State) (r : Response) : (s.respond r).pktLen = s.pktLen := rfl
@[simp] theorem State.respond_encCap (s : State) (r : Response) : (s.respond r).encCap = s.encCap := rfl
@[simp] theorem State.respond_tickFreqLo (s : State) (r : Response) : (s.respond r).tickFreqLo = s.tickFreqLo := rfl
@[simp] theorem State.respond_tickFreqHi (s : State) (r : Response) : (s.respond r).tickFreqHi = s.tickFreqHi := rfl
@[simp] theorem State.respond_argLo (s : State) (r : Response) : (s.respond r).argLo = s.argLo := rfl
@[simp] theorem State.respond_argHi (s : State) (r : Response) : (s.respond r).argHi = s.argHi := rfl
@[simp] theorem State.respond_resultLo (s : State) (r : Response) : (s.respond r).resultLo = s.resultLo := rfl
@[simp] theorem State.respond_resultHi (s : State) (r : Response) : (s.respond r).resultHi = s.resultHi := rfl
@[simp] theorem State.respond_inFrameId (s : State) (r : Response) : (s.respond r).inFrameId = s.inFrameId := rfl
@[simp] theorem State.respond_inPacketId (s : State) (r : Response) : (s.respond r).inPacketId = s.inPacketId := rfl
@[simp] theorem State.respond_inTsLo (s : State) (r : Response) : (s.respond r).inTsLo = s.inTsLo := rfl
@[simp] theorem State.respond_inTsHi (s : State) (r : Response) : (s.respond r).inTsHi = s.inTsHi := rfl
@[simp] theorem State.respond_inPixelFormat (s : State) (r : Response) : (s.respond r).inPixelFormat = s.inPixelFormat := rfl
@[simp] theorem State.respond_inWidth (s : State) (r : Response) : (s.respond r).inWidth = s.inWidth := rfl
@[simp] theorem State.respond_inHeight (s : State) (r : Response) : (s.respond r).inHeight = s.inHeight := rfl
@[simp] theorem State.respond_inXOffset (s : State) (r : Response) : (s.respond r).inXOffset = s.inXOffset := rfl
@[simp] theorem State.respond_inYOffset (s : State) (r : Response) : (s.respond r).inYOffset = s.inYOffset := rfl
@[simp] theorem State.respond_inDataLen (s : State) (r : Response) : (s.respond r).inDataLen = s.inDataLen := rfl
@[simp] theorem State.respond_pb (s : State) (r : Response) : (s.respond r).pb = s.pb := rfl
@[simp] theorem State.respond_sb (s : State) (r : Response) : (s.respond r).sb = s.sb := rfl
@[simp] theorem State.respond_resetAsserted (s : State) (r : Response) : (s.respond r).resetAsserted = s.resetAsserted := rfl
@[simp] theorem State.respond_pending (s : State) (r : Response) : (s.respond r).pending = s.pending := rfl
@[simp] theorem State.respond_responses (s : State) (r : Response) : (s.respond r).responses = r :: s.responses := rfl

/-! ## hardReset -/

/-- Asserting reset leaves the reset state but for the reset line, what is issued and what was answered. -/
theorem State.hardReset_eq (s : State) : s.hardReset =
    { State.resetWith s.params with resetAsserted := true, pending := s.pending, responses := s.responses } := rfl

/-! ## mapNext -/

@[simp] theorem mapNext_next (s : State) (f : State → State) : mapNext (.next s) f = .next (f s) := rfl
@[simp] theorem mapNext_fault (r : Fault) (f : State → State) : mapNext (.fault r) f = .fault r := rfl
@[simp] theorem mapNext_refused (r : Refusal) (f : State → State) : mapNext (.refused r) f = .refused r := rfl

/-- A next state of `mapNext o f` is `f` of a next state of `o`. -/
theorem mapNext_eq_next (o : Host.Outcome State Fault Refusal) (f : State → State) (t : State) :
    mapNext o f = .next t ↔ ∃ u, o = .next u ∧ t = f u := by
  cases o <;> simp [mapNext, eq_comm]

/-- What a PB command can do: answer the value read, or stop where a byte is unwritten. -/
theorem answerRead_eq_next (s t : State) (v : Option DWord) :
    answerRead s v = .next t ↔ ∃ r, v = some r ∧ t = s.answer r := by
  cases v <;> simp [answerRead, eq_comm]

@[simp] theorem answerRead_some (s : State) (r : DWord) : answerRead s (some r) = .next (s.answer r) := rfl
@[simp] theorem answerRead_none (s : State) : answerRead s none = .fault .unwrittenRead := rfl

end Sys2Proof.Machine
end

