-- ==== Sys2Proof/Laws/Flags.lean ====
section
/-! SUPPORT. The laws of STATUS and RESULT: the named operations do what the masks of the spec say. -/

namespace Sys2Proof.Machine

/-- `finish` on STATUS, as a mask: LAST_ERR cleared, DONE set (00_scope.md R9). -/
theorem statusFinish_eq (st : Word) : statusFinish st = (st &&& 0xFFF0FFFF#32) ||| 0x00000001#32 := by
  simp [statusFinish, setLastErr, flagDone]

/-- `raise` on STATUS, as a mask (60_exceptions.md R137). -/
theorem statusRaise_eq (st : Word) (e : CmdError) : statusRaise st e =
    (st &&& 0xFFF0FFFF#32) ||| (match e with
      | .illegal => 0x00010101#32
      | .size => 0x00020201#32
      | .cap => 0x00030401#32) := by
  cases e <;> simp [statusRaise, setLastErr, CmdError.code, CmdError.flag, flagDone, BitVec.or_assoc]

/-- A bus error on STATUS, as a mask (20_memory.md R52). -/
theorem statusBus_eq (st : Word) : statusBus st = st ||| 0x00000800#32 := rfl

theorem extractLo_eq (v : DWord) : v.extractLsb' 0 32 = BitVec.ofNat 32 (v.toNat % 2 ^ 32) := by
  apply BitVec.eq_of_toNat_eq
  simp

theorem extractHi_eq (v : DWord) : v.extractLsb' 32 32 = BitVec.ofNat 32 (v.toNat / 2 ^ 32) := by
  apply BitVec.eq_of_toNat_eq
  simp [Nat.shiftRight_eq_div_pow]

/-- RESULT is the value the command answered. -/
theorem State.result_setResult (s : State) (v : DWord) : (s.setResult v).result = v := by
  simpa [State.result, State.setResult] using join32_extract v

@[simp] theorem State.result_answer (s : State) (v : DWord) : (s.answer v).result = v :=
  State.result_setResult s v

/-- The normal end of a command, in the terms claims use. -/
theorem State.answer_eq (s : State) (v : DWord) : s.answer v = finishedWith s v := by
  simp only [State.answer, State.setResult, State.finish, finishedWith, extractLo_eq, extractHi_eq, statusFinish_eq]

/-- The end of GET_DATA_SIZE on an underflow (41_header_fields.md R110). -/
theorem State.failWith_size (s : State) : s.failWith .size = raisedWithZero s 9 2 := by
  simp only [State.failWith, State.setResult, State.raiseErr, raisedWithZero, statusRaise_eq]
  rfl

/-- The end of an encoder without capacity (43_encoder.md R126). -/
theorem State.failWith_cap (s : State) : s.failWith .cap = raisedWithZero s 10 3 := by
  simp only [State.failWith, State.setResult, State.raiseErr, raisedWithZero, statusRaise_eq]
  rfl

/-! ## STATUS stays legal -/

theorem StatusLegal_reset : StatusLegal 0#32 := by decide

/-- Reserved bits and LAST_ERR, bit by bit. -/
theorem statusLegal_iff (st : Word) : StatusLegal st ↔
    (∀ i < 32, (0xFFF0F0FE#32).getLsbD i = true → st.getLsbD i = false) ∧
      st.getLsbD 18 = false ∧ st.getLsbD 19 = false := by
  have key : (lastErrOf st).toNat ≤ 3 ↔ st.getLsbD 18 = false ∧ st.getLsbD 19 = false := by
    have h2 : (lastErrOf st).getLsbD 2 = st.getLsbD 18 := by simp [lastErrOf]
    have h3 : (lastErrOf st).getLsbD 3 = st.getLsbD 19 := by simp [lastErrOf]
    rw [← h2, ← h3]
    generalize lastErrOf st = c
    revert c
    decide
  have mask : st &&& 0xFFF0F0FE#32 = 0#32 ↔ ∀ i < 32, (0xFFF0F0FE#32).getLsbD i = true → st.getLsbD i = false := by
    constructor
    · intro h i hi hm
      have := congrArg (fun x => x.getLsbD i) h
      simpa [BitVec.getLsbD_and, hm] using this
    · intro h
      apply BitVec.eq_of_getLsbD_eq
      intro i hi
      have := h i hi
      cases hm : (0xFFF0F0FE#32).getLsbD i
      · simp [BitVec.getLsbD_and, hm]
      · simp [BitVec.getLsbD_and, this hm]
  rw [StatusLegal, key, mask]

/-! ## STATUS bit by bit -/

/-- `finish`, bit by bit: DONE set, LAST_ERR 0, the rest kept. -/
theorem getLsbD_statusFinish (st : Word) {j : Nat} (hj : j < 32) :
    (statusFinish st).getLsbD j = if j = 0 then true else if 16 ≤ j ∧ j ≤ 19 then false else st.getLsbD j := by
  rw [statusFinish_eq, BitVec.getLsbD_or, BitVec.getLsbD_and]
  interval_cases j <;> simp

/-- The bits an error sets beside DONE: its flag, and those of its code in LAST_ERR. -/
def CmdError.sets : CmdError → Nat → Bool
  | .illegal, j => j == 8 || j == 16
  | .size, j => j == 9 || j == 17
  | .cap, j => j == 10 || j == 16 || j == 17

/-- `raise`, bit by bit: DONE and the error's bits set, LAST_ERR its code, the rest kept. -/
theorem getLsbD_statusRaise (st : Word) (e : CmdError) {j : Nat} (hj : j < 32) :
    (statusRaise st e).getLsbD j =
      if j = 0 then true else if e.sets j then true else if 16 ≤ j ∧ j ≤ 19 then false else st.getLsbD j := by
  rw [statusRaise_eq, BitVec.getLsbD_or, BitVec.getLsbD_and]
  cases e <;> interval_cases j <;> simp [CmdError.sets]

/-- A bus error, bit by bit. -/
theorem getLsbD_statusBus (st : Word) {j : Nat} (hj : j < 32) :
    (statusBus st).getLsbD j = if j = 11 then true else st.getLsbD j := by
  rw [statusBus_eq, BitVec.getLsbD_or]
  interval_cases j <;> simp

/-- A write to STATUS, bit by bit: the W1C bits where a 1 is written are cleared, the rest kept. -/
theorem getLsbD_statusW1c (st w : Word) {j : Nat} (hj : j < 32) :
    (statusW1c st w).getLsbD j =
      if j = 0 ∨ (8 ≤ j ∧ j ≤ 11) then (st.getLsbD j && !w.getLsbD j) else st.getLsbD j := by
  simp only [statusW1c, w1cMask, BitVec.getLsbD_and, BitVec.getLsbD_not]
  interval_cases j <;> simp

theorem StatusLegal.finish {st : Word} (h : StatusLegal st) : StatusLegal (statusFinish st) := by
  rw [statusLegal_iff] at h ⊢
  refine ⟨fun i hi hm => ?_, by rw [getLsbD_statusFinish _ (by decide)]; rfl,
    by rw [getLsbD_statusFinish _ (by decide)]; rfl⟩
  have := h.1 i hi hm
  rw [getLsbD_statusFinish st hi]
  interval_cases i <;> simp_all

theorem StatusLegal.raise {st : Word} (h : StatusLegal st) (e : CmdError) : StatusLegal (statusRaise st e) := by
  rw [statusLegal_iff] at h ⊢
  refine ⟨fun i hi hm => ?_, ?_, ?_⟩
  · have := h.1 i hi hm
    rw [getLsbD_statusRaise st e hi]
    cases e <;> interval_cases i <;> simp_all [CmdError.sets]
  · rw [getLsbD_statusRaise _ _ (by decide)]; cases e <;> rfl
  · rw [getLsbD_statusRaise _ _ (by decide)]; cases e <;> rfl

theorem StatusLegal.bus {st : Word} (h : StatusLegal st) : StatusLegal (statusBus st) := by
  rw [statusLegal_iff] at h ⊢
  refine ⟨fun i hi hm => ?_, by rw [getLsbD_statusBus _ (by decide)]; exact h.2.1,
    by rw [getLsbD_statusBus _ (by decide)]; exact h.2.2⟩
  have := h.1 i hi hm
  rw [getLsbD_statusBus st hi]
  interval_cases i <;> simp_all

theorem StatusLegal.w1c {st : Word} (h : StatusLegal st) (w : Word) : StatusLegal (statusW1c st w) := by
  rw [statusLegal_iff] at h ⊢
  refine ⟨fun i hi hm => ?_, by rw [getLsbD_statusW1c _ _ (by decide)]; exact h.2.1,
    by rw [getLsbD_statusW1c _ _ (by decide)]; exact h.2.2⟩
  have := h.1 i hi hm
  rw [getLsbD_statusW1c st w hi, this]
  simp

end Sys2Proof.Machine
end

