-- ==== Sys2Proof/Laws/Exec.lean ====
section
/-! SUPPORT. What a command can do, said once: every next state of `exec` is one of the ends of Machine/Ops.lean. -/

namespace Sys2Proof.Machine

/-- The two ends of a builder (43_encoder.md R126). -/
theorem encodePacket_eq_next (s t : State) (fixed : Nat) (pb : Memory) (n : Nat) :
    encodePacket s fixed pb n = .next t ↔
      (s.encCap.toNat < fixed ∧ t = s.failWith .cap) ∨
      (fixed ≤ s.encCap.toNat ∧ t = (s.setPb pb).answer (BitVec.ofNat 64 n)) := by
  unfold encodePacket
  split
  · rename_i h
    simp [h, Nat.not_le.2 h, eq_comm]
  · rename_i h
    simp [h, Nat.not_lt.1 h, eq_comm]

/-- A builder without the capacity for its fixed part fails with CAP. -/
theorem encodePacket_of_lt {s : State} {fixed : Nat} (h : s.encCap.toNat < fixed) (pb : Memory) (n : Nat) :
    encodePacket s fixed pb n = .next (s.failWith .cap) := if_pos h

/-- A builder with the capacity for its fixed part writes its packet. -/
theorem encodePacket_of_le {s : State} {fixed : Nat} (h : fixed ≤ s.encCap.toNat) (pb : Memory) (n : Nat) :
    encodePacket s fixed pb n = .next ((s.setPb pb).answer (BitVec.ofNat 64 n)) := if_neg (Nat.not_lt.2 h)

/-- What a builder's PB is, and how many bytes it reports. -/
def packetOf (i : Instr) (s : State) : Nat × Memory × Nat :=
  match i with
  | .encLeader => (40, leaderPacket s, 40)
  | .encTrailer => (16, trailerPacket s, 16)
  | _ => (8, dataBlockPacket s, 8 + dataBlockLength s)

/-- Every builder is `encodePacket` on its own packet. -/
theorem exec_encoder {i : Instr} (h : i ∈ encoders) (s : State) :
    exec i s = encodePacket s (packetOf i s).1 (packetOf i s).2.1 (packetOf i s).2.2 := by
  simp only [encoders, List.mem_cons, List.not_mem_nil, or_false] at h
  rcases h with rfl | rfl | rfl <;> simp only [exec, execEncLeader, execEncTrailer, execEncDataBlock, packetOf]

/-- GET_DATA_SIZE, its three ends (41_header_fields.md R110). -/
theorem execGetDataSize_eq_next (s t : State) (h : execGetDataSize s = .next t) :
    t = s.failWith .size ∨
      ∃ m, pbMode s.pb = some m ∧ dataOffset m ≤ s.pktLen.toNat ∧ 8 ≤ s.pktLen.toNat ∧
        t = s.answer (BitVec.ofNat 64 (s.pktLen.toNat - dataOffset m)) := by
  unfold execGetDataSize at h
  split at h
  · cases h; exact .inl rfl
  · split at h
    · rename_i m hm
      split at h
      · cases h; exact .inl rfl
      · cases h; exact .inr ⟨m, hm, by omega, by omega, rfl⟩
    · cases h

/-- Everything a command can do when it answers a next state: NOP finishes; an encoder writes a packet and answers, or
fails with CAP; GET_DATA_SIZE may fail with SIZE; every other end is an answer in RESULT. -/
theorem exec_eq_next {i : Instr} {s t : State} (h : exec i s = .next t) :
    (i = .nop ∧ t = s.finish) ∨
    (i ∉ encoders ∧ ∃ v, t = s.answer v) ∨
    (i = .getDataSize ∧ t = s.failWith .size) ∨
    (i ∈ encoders ∧
      ((s.encCap.toNat < (packetOf i s).1 ∧ t = s.failWith .cap) ∨
       ((packetOf i s).1 ≤ s.encCap.toNat ∧
         t = (s.setPb (packetOf i s).2.1).answer (BitVec.ofNat 64 (packetOf i s).2.2)))) := by
  by_cases he : i ∈ encoders
  · rw [exec_encoder he, encodePacket_eq_next] at h
    exact .inr (.inr (.inr ⟨he, h⟩))
  · cases i <;> simp only [exec] at h
    case nop => cases h; exact .inl ⟨rfl, rfl⟩
    case getDataSize =>
      rcases execGetDataSize_eq_next s t h with rfl | ⟨m, -, -, -, rfl⟩
      · exact .inr (.inr (.inl ⟨rfl, rfl⟩))
      · exact .inr (.inl ⟨he, _, rfl⟩)
    case encLeader => simp at he
    case encTrailer => simp at he
    case encDataBlock => simp at he
    case isError | mapBufferKind | scaleTs | bswap16 | bswap32 | bswap64 =>
      cases h; exact .inr (.inl ⟨he, _, rfl⟩)
    all_goals
      obtain ⟨v, -, rfl⟩ := (answerRead_eq_next s t _).1 h
      exact .inr (.inl ⟨he, v, rfl⟩)

/-- A command that reads PB through `answerRead` is never refused. -/
theorem answerRead_ne_refused (s : State) (v : Option DWord) (r : Refusal) : answerRead s v ≠ .refused r := by
  cases v <;> simp [answerRead]

theorem encodePacket_ne_refused (s : State) (fixed : Nat) (pb : Memory) (n : Nat) (r : Refusal) :
    encodePacket s fixed pb n ≠ .refused r := by
  unfold encodePacket; split <;> simp

/-- No command is refused. -/
theorem exec_ne_refused (i : Instr) (s : State) (r : Refusal) : exec i s ≠ .refused r := by
  by_cases he : i ∈ encoders
  · rw [exec_encoder he]; exact encodePacket_ne_refused _ _ _ _ _
  · cases i <;> simp only [exec]
    case nop => simp [execNop]
    case getDataSize =>
      unfold execGetDataSize
      split
      · simp
      · split
        · split <;> simp
        · simp
    case encLeader => simp at he
    case encTrailer => simp at he
    case encDataBlock => simp at he
    case isError | mapBufferKind | scaleTs | bswap16 | bswap32 | bswap64 =>
      simp [execIsError, execMapBufferKind, execScaleTs, execBswap16, execBswap32, execBswap64]
    all_goals exact answerRead_ne_refused _ _ _

end Sys2Proof.Machine
end

