-- ==== Sys2Proof/Laws/Packer.lean ====
section
/-! SUPPORT. The laws of the packer: the bytes a packed word has, and that a later field write leaves the earlier bytes. -/

namespace Sys2Proof.Machine

/-- A 16-bit field written clear of the bytes leaves them. -/
theorem Memory.holds_write16_of_apart {m : Memory} {a b : Nat} {bs : List Byte} (v : Half) (h : m.Holds a bs)
    (hb : a + bs.length ≤ b ∨ b + 2 ≤ a) : (m.write16 b v).Holds a bs := by
  intro j c hj
  have hl : j < bs.length := (List.getElem?_eq_some_iff.1 hj).1
  rw [Memory.read_write16, if_neg (by omega), if_neg (by omega)]
  exact h j c hj

/-- A 32-bit field written clear of the bytes leaves them. -/
theorem Memory.holds_write32_of_apart {m : Memory} {a b : Nat} {bs : List Byte} (v : Word) (h : m.Holds a bs)
    (hb : a + bs.length ≤ b ∨ b + 4 ≤ a) : (m.write32 b v).Holds a bs := by
  intro j c hj
  have hl : j < bs.length := (List.getElem?_eq_some_iff.1 hj).1
  rw [Memory.read_write32, if_neg (by omega), if_neg (by omega), if_neg (by omega), if_neg (by omega)]
  exact h j c hj

/-- A byte below a written 16-bit field, or past it, reads as before. -/
theorem Memory.read_write16_of_apart (m : Memory) {a k : Nat} (v : Half) (h : k < a ∨ a + 2 ≤ k) :
    (m.write16 a v).read k = m.read k := by
  rw [Memory.read_write16, if_neg (by omega), if_neg (by omega)]

/-- A byte below a written 32-bit field, or past it, reads as before. -/
theorem Memory.read_write32_of_apart (m : Memory) {a k : Nat} (v : Word) (h : k < a ∨ a + 4 ≤ k) :
    (m.write32 a v).read k = m.read k := by
  rw [Memory.read_write32, if_neg (by omega), if_neg (by omega), if_neg (by omega), if_neg (by omega)]

/-- Bytes in front, then a 16-bit field written behind them. -/
theorem Memory.holds_then16 {m : Memory} {a b : Nat} {bs : List Byte} (v : Half) (h : m.Holds a bs)
    (hb : b = a + bs.length) : (m.write16 b v).Holds a (bs ++ bytes16 v) := by
  subst hb
  exact (Memory.holds_append _ _ _ _).2
    ⟨Memory.holds_write16_of_apart v h (.inl (Nat.le_refl _)), Memory.holds_write16 m _ v⟩

/-- Bytes in front, then a 32-bit field written behind them. -/
theorem Memory.holds_then32 {m : Memory} {a b : Nat} {bs : List Byte} (v : Word) (h : m.Holds a bs)
    (hb : b = a + bs.length) : (m.write32 b v).Holds a (bs ++ bytes32 v) := by
  subst hb
  exact (Memory.holds_append _ _ _ _).2
    ⟨Memory.holds_write32_of_apart v h (.inl (Nat.le_refl _)), Memory.holds_write32 m _ v⟩

/-- The bytes of a packed packet-info word: MODE = 0 over the content type, then the 24 bits of the id (R83). -/
theorem bytes32_packPinfo (ct : BitVec 7) (pid : Word) :
    bytes32 (packPinfo ct (pid.extractLsb' 0 24)) =
      [ct.setWidth 8, pid.extractLsb' 16 8, pid.extractLsb' 8 8, pid.extractLsb' 0 8] := by
  have h3 : (packPinfo ct (pid.extractLsb' 0 24)).extractLsb' 24 8 = ct.setWidth 8 := by
    apply BitVec.eq_of_getLsbD_eq
    intro i hi
    simp only [packPinfo, BitVec.getLsbD_extractLsb', BitVec.getLsbD_or, BitVec.getLsbD_shiftLeft,
      BitVec.getLsbD_setWidth]
    interval_cases i <;> simp
  have low : ∀ o, o + 8 ≤ 24 → (packPinfo ct (pid.extractLsb' 0 24)).extractLsb' o 8 = pid.extractLsb' o 8 := by
    intro o ho
    apply BitVec.eq_of_getLsbD_eq
    intro i hi
    have h1 : o + i < 24 := by omega
    have h2 : o + i < 32 := by omega
    simp [packPinfo, hi, h1, h2]
  simp only [bytes32, h3, low 16 (by decide), low 8 (by decide), low 0 (by decide)]

/-- What ENCODE_HEADER leaves in PB (43_encoder.md R126). -/
theorem writeHeader_holds (s : State) (ct : BitVec 7) : (writeHeader s ct).Holds 0 (headerBytes s (ct.setWidth 8)) := by
  have h0 : bytes16 0x0000#16 = [0x00#8, 0x00#8] := by decide
  have h1 := Memory.holds_then16 s.inFrameId (Memory.holds_write16 s.pb 0 0x0000#16) (b := 2) rfl
  have h2 := Memory.holds_then32 (packPinfo ct (s.inPacketId.extractLsb' 0 24)) h1 (b := 4) rfl
  rw [bytes32_packPinfo, h0] at h2
  exact h2

/-- ENCODE_HEADER writes no byte of PB but its eight (R126). -/
theorem writeHeader_read_of_le (s : State) (ct : BitVec 7) {k : Nat} (hk : 8 ≤ k) :
    (writeHeader s ct).read k = s.pb.read k := by
  simp only [writeHeader, Memory.read_write16, Memory.read_write32]
  split_ifs <;> first | rfl | omega

end Sys2Proof.Machine
end

