-- ==== Sys2Proof/Laws/PerInstr.lean ====
section
/-! SUPPORT. One lemma per command about its word (30_encoding.md R85, R86): the reserved field is zero, the opcode field
is the command's opcode, and R89's checks pass on it. -/

namespace Sys2Proof.Laws.WordForm

/-- The form of a command's word. -/
def Statement (i : Instr) : Prop :=
  i.wf = true ∧ reservedField (encode i) = 0#24 ∧ opcodeField (encode i) = i.opcode ∧ legalWord (encode i) = true

theorem nop : Statement .nop := ⟨rfl, rfl, rfl, rfl⟩
theorem classify : Statement .classify := ⟨rfl, rfl, rfl, rfl⟩
theorem getHeaderMode : Statement .getHeaderMode := ⟨rfl, rfl, rfl, rfl⟩
theorem getPacketType : Statement .getPacketType := ⟨rfl, rfl, rfl, rfl⟩
theorem isError : Statement .isError := ⟨rfl, rfl, rfl, rfl⟩
theorem getContentType : Statement .getContentType := ⟨rfl, rfl, rfl, rfl⟩
theorem getPacketId : Statement .getPacketId := ⟨rfl, rfl, rfl, rfl⟩
theorem getFrameId : Statement .getFrameId := ⟨rfl, rfl, rfl, rfl⟩
theorem getDataOffset : Statement .getDataOffset := ⟨rfl, rfl, rfl, rfl⟩
theorem getDataSize : Statement .getDataSize := ⟨rfl, rfl, rfl, rfl⟩
theorem getPayloadType : Statement .getPayloadType := ⟨rfl, rfl, rfl, rfl⟩
theorem getPixelFormat : Statement .getPixelFormat := ⟨rfl, rfl, rfl, rfl⟩
theorem getWidth : Statement .getWidth := ⟨rfl, rfl, rfl, rfl⟩
theorem getHeight : Statement .getHeight := ⟨rfl, rfl, rfl, rfl⟩
theorem getXOffset : Statement .getXOffset := ⟨rfl, rfl, rfl, rfl⟩
theorem getYOffset : Statement .getYOffset := ⟨rfl, rfl, rfl, rfl⟩
theorem getTsTicks : Statement .getTsTicks := ⟨rfl, rfl, rfl, rfl⟩
theorem getTsNs : Statement .getTsNs := ⟨rfl, rfl, rfl, rfl⟩
theorem getBufferKind : Statement .getBufferKind := ⟨rfl, rfl, rfl, rfl⟩
theorem mapBufferKind : Statement .mapBufferKind := ⟨rfl, rfl, rfl, rfl⟩
theorem scaleTs : Statement .scaleTs := ⟨rfl, rfl, rfl, rfl⟩
theorem encLeader : Statement .encLeader := ⟨rfl, rfl, rfl, rfl⟩
theorem encTrailer : Statement .encTrailer := ⟨rfl, rfl, rfl, rfl⟩
theorem encDataBlock : Statement .encDataBlock := ⟨rfl, rfl, rfl, rfl⟩
theorem bswap16 : Statement .bswap16 := ⟨rfl, rfl, rfl, rfl⟩
theorem bswap32 : Statement .bswap32 := ⟨rfl, rfl, rfl, rfl⟩
theorem bswap64 : Statement .bswap64 := ⟨rfl, rfl, rfl, rfl⟩

end Sys2Proof.Laws.WordForm
end

