-- ==== Sys2Proof/Laws/Port.lean ====
section
/-! SUPPORT. What the port can do, said once: when it refuses, where an accepted access goes, and what a step with a
pending transaction is. -/

namespace Sys2Proof.Machine

/-! ## Address decode -/

/-- The port decodes no target exactly where it refuses (20_memory.md R50, R52). -/
theorem decodeAccess_eq_none (p : Params) (a : PortAddr) (w : Width) :
    decodeAccess p a w = none ↔ PortRefuses p a w := by
  unfold decodeAccess PortRefuses
  split
  · rename_i h
    split
    · rename_i h'; simp only [reduceCtorEq, false_iff]; simp [h'.1, h'.2]; omega
    · rename_i h'; simp only [true_iff]; left; refine ⟨h, ?_⟩
      by_cases hw : w = .word
      · exact .inr fun h2 => h' ⟨hw, h2⟩
      · exact .inl hw
  · split
    · split
      · simp only [reduceCtorEq, false_iff]; omega
      · simp only [true_iff]; omega
    · split
      · split
        · simp only [reduceCtorEq, false_iff]; omega
        · simp only [true_iff]; omega
      · simp only [true_iff]; omega

/-- An accepted register access. -/
theorem decodeAccess_register (p : Params) (a : PortAddr) (h : a.toNat < 0x10000) (h4 : a.toNat % 4 = 0) :
    decodeAccess p a .word = some (.register a.toNat) := by
  simp [decodeAccess, h, h4]

theorem toNat_pbAddr {k : Nat} (h : k < 0x10000) : (BitVec.ofNat 18 (0x10000 + k)).toNat = 0x10000 + k := by
  rw [BitVec.toNat_ofNat]; omega

theorem toNat_sbAddr {k : Nat} (h : k < 0x10000) : (BitVec.ofNat 18 (0x20000 + k)).toNat = 0x20000 + k := by
  rw [BitVec.toNat_ofNat]; omega

theorem Width.bytes_pos (w : Width) : 0 < w.bytes := by cases w <;> decide

theorem Width.bytes_dvd (w : Width) (c : Nat) (hc : c % 4 = 0) : c % w.bytes = 0 := by
  cases w <;> simp only [Width.bytes] <;> omega

/-- An accepted PB window access. -/
theorem decodeAccess_pb (p : Params) (hp : p.Legal) (k : Nat) (w : Width) (ha : k % w.bytes = 0)
    (hk : k + w.bytes ≤ p.pbSize) : decodeAccess p (BitVec.ofNat 18 (0x10000 + k)) w = some (.pb k) := by
  have hw := w.bytes_pos
  have hlt : k < 0x10000 := by have := hp.2.1; omega
  have hm : (0x10000 + k) % w.bytes = 0 := by
    rw [Nat.add_mod, ha, Width.bytes_dvd w 0x10000 (by decide)]; simp
  have h1 : ¬ (0x10000 + k < 0x10000) := by omega
  have h2 : 0x10000 + k < 0x20000 := by omega
  have h3 : 0x10000 + k - 0x10000 = k := by omega
  simp only [decodeAccess, toNat_pbAddr hlt, if_neg h1, if_pos h2, h3]
  rw [if_pos ⟨hm, hk⟩]

/-- An accepted SB window access. -/
theorem decodeAccess_sb (p : Params) (hp : p.Legal) (k : Nat) (w : Width) (ha : k % w.bytes = 0)
    (hk : k + w.bytes ≤ p.sbSize) : decodeAccess p (BitVec.ofNat 18 (0x20000 + k)) w = some (.sb k) := by
  have hw := w.bytes_pos
  have hlt : k < 0x10000 := by have := hp.2.2.2; omega
  have hm : (0x20000 + k) % w.bytes = 0 := by
    rw [Nat.add_mod, ha, Width.bytes_dvd w 0x20000 (by decide)]; simp
  have h1 : ¬ (0x20000 + k < 0x10000) := by omega
  have h2 : ¬ (0x20000 + k < 0x20000) := by omega
  have h3 : 0x20000 + k < 0x30000 := by omega
  have h4 : 0x20000 + k - 0x20000 = k := by omega
  simp only [decodeAccess, toNat_sbAddr hlt, if_neg h1, if_neg h2, if_pos h3, h4]
  rw [if_pos ⟨hm, hk⟩]

/-- An accepted access lies inside its buffer, and a register access at a register offset. -/
theorem decodeAccess_inside {p : Params} {a : PortAddr} {w : Width} {x : Access} (h : decodeAccess p a w = some x) :
    match x with
    | .register off => off = a.toNat ∧ w = .word ∧ off < 0x10000 ∧ off % 4 = 0
    | .pb k => k + w.bytes ≤ p.pbSize ∧ a.toNat = 0x10000 + k
    | .sb k => k + w.bytes ≤ p.sbSize ∧ a.toNat = 0x20000 + k := by
  unfold decodeAccess at h
  split at h
  · split at h
    · rename_i h1 h2; cases h; exact ⟨rfl, h2.1, h1, h2.2⟩
    · cases h
  · split at h
    · split at h
      · rename_i h1 h2 h3; cases h; exact ⟨h3.2, by omega⟩
      · cases h
    · split at h
      · split at h
        · rename_i h1 h2 h3 h4; cases h; exact ⟨h4.2, by omega⟩
        · cases h
      · cases h

/-! ## Registers -/

/-- A register write leaves the buffers, the parameters and the port's record alone. -/
@[simp] theorem regWrite_params (s : State) (r : Reg) (v : Word) : (regWrite s r v).params = s.params := by cases r <;> rfl
@[simp] theorem regWrite_pb (s : State) (r : Reg) (v : Word) : (regWrite s r v).pb = s.pb := by cases r <;> rfl
@[simp] theorem regWrite_sb (s : State) (r : Reg) (v : Word) : (regWrite s r v).sb = s.sb := by cases r <;> rfl
@[simp] theorem regWrite_resetAsserted (s : State) (r : Reg) (v : Word) :
    (regWrite s r v).resetAsserted = s.resetAsserted := by cases r <;> rfl
@[simp] theorem regWrite_pending (s : State) (r : Reg) (v : Word) : (regWrite s r v).pending = s.pending := by
  cases r <;> rfl
@[simp] theorem regWrite_responses (s : State) (r : Reg) (v : Word) : (regWrite s r v).responses = s.responses := by
  cases r <;> rfl

/-- STATUS changes on a write to STATUS alone. -/
theorem regWrite_status (s : State) (r : Reg) (v : Word) :
    (regWrite s r v).status = if r = .status then statusW1c s.status v else s.status := by cases r <;> rfl

/-- A reserved register offset names no register (10_state.md R41). -/
theorem regAt_reserved {off : Nat} (h4 : off % 4 = 0) (h : off = 0x038 ∨ off = 0x03C ∨ 0x068 ≤ off) :
    regAt off = .reserved := by
  unfold regAt
  split <;> first | rfl | omega

/-- The offset of CMD, and of no other register. -/
theorem regAt_eq_cmd (off : Nat) : regAt off = .cmd ↔ off = 0x010 := by
  unfold regAt
  split <;> simp_all

/-- The offset of STATUS, and of no other register. -/
theorem regAt_eq_status (off : Nat) : regAt off = .status ↔ off = 0x014 := by
  unfold regAt
  split <;> simp_all

/-! ## The step -/

/-- With a transaction pending and reset released, a step is that transaction. -/
theorem step_of_issues {s : State} {t : Txn} {rest : List HostEvent} (h : s.Issues t rest) :
    step s = transact { s with pending := rest } t := by
  obtain ⟨h1, h2⟩ := h
  simp [step, advance, h1, h2]

/-- A register write that is not a command. -/
theorem writeRegister_of_ne_cmd {r : Reg} (h : r ≠ .cmd) (s : State) (v : Word) :
    writeRegister s r v = .next (regWrite s r v) := by
  cases r <;> first | rfl | exact absurd rfl h

/-- A 32-bit write of a register that is not CMD. -/
theorem step_write_register {s : State} {rest : List HostEvent} {a : PortAddr} {v : Word}
    (h : s.Issues (.write a .word v) rest) (ha : a.toNat < 0x10000) (h4 : a.toNat % 4 = 0) (hc : a.toNat ≠ 0x010) :
    step s = .next ((regWrite { s with pending := rest } (regAt a.toNat) v).respond (.writeDone .okay)) := by
  have hn : regAt a.toNat ≠ .cmd := fun h' => hc ((regAt_eq_cmd _).1 h')
  rw [step_of_issues h]
  simp [transact, busWrite, decodeAccess_register _ a ha h4, writeRegister_of_ne_cmd hn]

/-- A 32-bit read of a register. -/
theorem step_read_register {s : State} {rest : List HostEvent} {a : PortAddr}
    (h : s.Issues (.read a .word) rest) (ha : a.toNat < 0x10000) (h4 : a.toNat % 4 = 0) :
    step s = .next (answered s rest (.readDone .okay (regRead { s with pending := rest } (regAt a.toNat)))) := by
  rw [step_of_issues h]
  simp [transact, busRead, decodeAccess_register _ a ha h4, State.respond, answered]

/-- A command word written to CMD. -/
theorem step_write_cmd {s : State} {rest : List HostEvent} {w : Word} (h : s.Issues (.write 0x00010#18 .word w) rest) :
    step s = mapNext (issueCommand { s with pending := rest } w) (fun t => t.respond (.writeDone .okay)) := by
  rw [step_of_issues h]
  simp [transact, busWrite, decodeAccess_register _ (0x00010#18) (by decide) (by decide), regAt, writeRegister]

/-- A refused transaction (20_memory.md R52). -/
theorem transact_refused {s : State} {t : Txn} (h : PortRefuses s.params t.addr t.width) :
    transact s t = .next (s.busErr.respond (match t with
      | .read _ _ => .readDone .error 0#32
      | .write _ _ _ => .writeDone .error)) := by
  have := (decodeAccess_eq_none _ _ _).2 h
  cases t <;> simp_all [transact, busRead, busWrite, Txn.addr, Txn.width]

/-- Everything a transaction the port takes can do when it answers a next state. -/
theorem transact_eq_next {s u : State} {t : Txn} (h : transact s t = .next u) :
    (PortRefuses s.params t.addr t.width ∧ ∃ r : Response, r.isError = true ∧ u = s.busErr.respond r) ∨
    (¬ PortRefuses s.params t.addr t.width ∧ ∃ r : Response, r.isError = false ∧
      ((∃ a w, t = .read a w ∧ ∃ d, r = .readDone .okay d ∧ u = s.respond r) ∨
       (∃ a v, t = .write a .word v ∧ r = .writeDone .okay ∧ a.toNat ≠ 0x010 ∧ a.toNat < 0x10000 ∧
         u = (regWrite s (regAt a.toNat) v).respond r) ∨
       (∃ v, t = .write 0x00010#18 .word v ∧ r = .writeDone .okay ∧
         ∃ x, issueCommand s v = .next x ∧ u = x.respond r) ∨
       (∃ a w v k, t = .write a w v ∧ r = .writeDone .okay ∧ a.toNat = 0x10000 + k ∧ k + w.bytes ≤ s.params.pbSize ∧
         u = (s.setPb (laneWrite s.pb k w v)).respond r) ∨
       (∃ a w v k, t = .write a w v ∧ r = .writeDone .okay ∧ a.toNat = 0x20000 + k ∧ k + w.bytes ≤ s.params.sbSize ∧
         u = { s with sb := laneWrite s.sb k w v }.respond r))) := by
  by_cases hr : PortRefuses s.params t.addr t.width
  · rw [transact_refused hr] at h
    refine .inl ⟨hr, _, ?_, (Host.Outcome.next.inj h).symm⟩
    cases t <;> rfl
  · refine .inr ⟨hr, ?_⟩
    have hd : decodeAccess s.params t.addr t.width ≠ none := fun h' => hr ((decodeAccess_eq_none _ _ _).1 h')
    obtain ⟨x, hx⟩ := Option.ne_none_iff_exists'.1 hd
    have hin := decodeAccess_inside hx
    cases t with
    | read a w =>
      simp only [Txn.addr, Txn.width] at hx
      simp only [transact, busRead, hx] at h
      have key : ∃ d, u = s.respond (.readDone .okay d) := by
        cases x with
        | register off => exact ⟨_, (Host.Outcome.next.inj h).symm⟩
        | pb k =>
          simp only [answerWindow] at h
          split at h
          · exact ⟨_, (Host.Outcome.next.inj h).symm⟩
          · cases h
        | sb k =>
          simp only [answerWindow] at h
          split at h
          · exact ⟨_, (Host.Outcome.next.inj h).symm⟩
          · cases h
      obtain ⟨d, hd⟩ := key
      exact ⟨_, rfl, .inl ⟨a, w, rfl, d, rfl, hd⟩⟩
    | write a w v =>
      refine ⟨.writeDone .okay, rfl, .inr ?_⟩
      simp only [Txn.addr, Txn.width] at hx
      simp only [transact, busWrite, hx] at h
      cases x with
      | register off =>
        obtain ⟨rfl, rfl, hlt, -⟩ := hin
        simp only [Txn.addr] at h hlt
        by_cases hc : a.toNat = 0x010
        · have ha : a = 0x00010#18 := BitVec.eq_of_toNat_eq (by simpa using hc)
          subst ha
          obtain ⟨y, hy, rfl⟩ := (mapNext_eq_next _ _ _).1 h
          exact .inr (.inl ⟨v, rfl, rfl, y, hy, rfl⟩)
        · have hn : regAt a.toNat ≠ .cmd := fun h' => hc ((regAt_eq_cmd _).1 h')
          rw [writeRegister_of_ne_cmd hn] at h
          exact .inl ⟨a, v, rfl, rfl, hc, hlt, (Host.Outcome.next.inj h).symm⟩
      | pb k => exact .inr (.inr (.inl ⟨a, w, v, k, rfl, rfl, hin.2, hin.1, (Host.Outcome.next.inj h).symm⟩))
      | sb k => exact .inr (.inr (.inr ⟨a, w, v, k, rfl, rfl, hin.2, hin.1, (Host.Outcome.next.inj h).symm⟩))

/-- Everything a command issue can do: an illegal word raises ILLEGAL, a legal one runs its command. -/
theorem issueCommand_eq_next {s t : State} {w : Word} (h : issueCommand s w = .next t) :
    (∃ r, decode w = .error r ∧ t = s.illegalCommand) ∨ (∃ i, decode w = .ok i ∧ exec i s = .next t) := by
  unfold issueCommand at h
  split at h
  · rename_i i hi; exact .inr ⟨i, hi, h⟩
  · rename_i r hr; exact .inl ⟨r, hr, (Host.Outcome.next.inj h).symm⟩

/-- Everything a step can do when it answers a next state. -/
theorem step_eq_next {s u : State} (h : step s = .next u) :
    u = s ∨
    (∃ rest, s.pending = .assertReset :: rest ∧ u = { s.hardReset with pending := rest }) ∨
    (∃ q, u = { s with resetAsserted := false, pending := q }) ∨
    (∃ t rest, s.Issues t rest ∧ transact { s with pending := rest } t = .next u) := by
  unfold step advance at h
  split at h
  · exact .inl (Host.Outcome.next.inj h).symm
  · rename_i rest hp; exact .inr (.inl ⟨rest, hp, (Host.Outcome.next.inj h).symm⟩)
  · rename_i rest hp; exact .inr (.inr (.inl ⟨rest, (Host.Outcome.next.inj h).symm⟩))
  · rename_i t rest hp
    split at h
    · split at h
      · exact .inr (.inr (.inl ⟨_, (Host.Outcome.next.inj h).symm⟩))
      · exact .inl (Host.Outcome.next.inj h).symm
    · rename_i hr
      exact .inr (.inr (.inr ⟨t, rest, ⟨by simpa using hr, hp⟩, h⟩))

end Sys2Proof.Machine
end

