-- ==== Sys2Proof/Laws/Unwritten.lean ====
section
/-! SUPPORT. When a command faults, said once: exactly where one of the bytes its rule names is unwritten. -/

namespace Sys2Proof.Machine

/-- A command that answers through `answerRead` faults exactly where it has no value. -/
theorem answerRead_eq_fault (s : State) (v : Option DWord) : answerRead s v = .fault .unwrittenRead ↔ v = none := by
  cases v <;> simp [answerRead]

/-- The bytes of a field, chosen by the mode. -/
theorem bytesByMode_of_read {pb : Memory} {b4 : Byte} (h : pb.read 4 = some b4) (c e : List Nat) :
    bytesByMode pb c e = if b4.toNat < 128 then c else e := by
  simp [bytesByMode, h]

/-- The named bytes of a leader field once PB[4] is written. -/
theorem mem_leaderBytes {pb : Memory} {b4 : Byte} (h : pb.read 4 = some b4) (o n k : Nat) :
    k ∈ leaderBytes pb o n ↔ k = 4 ∨ ∃ j < n, payloadAt b4 + o + j = k := by
  rw [leaderBytes, bytesByMode_of_read h]
  unfold payloadAt
  split <;> simp

/-- A leader field has an unwritten named byte exactly where PB[4] or one of its own bytes is unwritten. -/
theorem leaderBytes_unwritten {pb : Memory} {b4 : Byte} (h : pb.read 4 = some b4) (o n : Nat) :
    (∃ k ∈ leaderBytes pb o n, pb.Unwritten k) ↔ ∃ j < n, pb.read (payloadAt b4 + o + j) = none := by
  constructor
  · rintro ⟨k, hk, hu⟩
    rcases (mem_leaderBytes h o n k).1 hk with rfl | ⟨j, hj, rfl⟩
    · rw [Memory.Unwritten, h] at hu; cases hu
    · exact ⟨j, hj, hu⟩
  · rintro ⟨j, hj, hu⟩
    exact ⟨_, (mem_leaderBytes h o n _).2 (.inr ⟨j, hj, rfl⟩), hu⟩

/-- With PB[4] unwritten a leader field has an unwritten named byte. -/
theorem leaderBytes_unwritten_of_mode {pb : Memory} (h : pb.Unwritten 4) (o n : Nat) :
    ∃ k ∈ leaderBytes pb o n, pb.Unwritten k := ⟨4, by simp [leaderBytes], h⟩

theorem pbMode_eq_none (pb : Memory) : pbMode pb = none ↔ pb.read 4 = none := by simp [pbMode]

theorem pbContentType_eq_none (pb : Memory) : pbContentType pb = none ↔ pb.read 4 = none := by simp [pbContentType]

theorem pbStatus_eq_none (pb : Memory) : pbStatus pb = none ↔ ∃ k ∈ [0, 1], pb.Unwritten k := by
  rw [pbStatus, Memory.read16_eq_none]
  constructor
  · rintro ⟨j, hj, h⟩
    exact ⟨j, by simp; omega, by rwa [Nat.zero_add] at h⟩
  · rintro ⟨k, hk, h⟩
    exact ⟨k, by simp at hk; omega, by rwa [Nat.zero_add]⟩

theorem pbLeader16_eq_none (pb : Memory) (o : Nat) :
    pbLeader16 pb o = none ↔ ∃ k ∈ leaderBytes pb o 2, pb.Unwritten k := by
  cases h4 : pb.read 4 with
  | none => exact iff_of_true (by simp [pbLeader16, pbMode_of_unwritten h4]) (leaderBytes_unwritten_of_mode h4 o 2)
  | some b4 => rw [pbLeader16_of_read h4, Memory.read16_eq_none, leaderBytes_unwritten h4]

theorem pbLeader32_eq_none (pb : Memory) (o : Nat) :
    pbLeader32 pb o = none ↔ ∃ k ∈ leaderBytes pb o 4, pb.Unwritten k := by
  cases h4 : pb.read 4 with
  | none => exact iff_of_true (by simp [pbLeader32, pbMode_of_unwritten h4]) (leaderBytes_unwritten_of_mode h4 o 4)
  | some b4 => rw [pbLeader32_of_read h4, Memory.read32_eq_none, leaderBytes_unwritten h4]

theorem pbTicks_eq_none (pb : Memory) : pbTicks pb = none ↔ ∃ k ∈ leaderBytes pb 4 8, pb.Unwritten k := by
  cases h4 : pb.read 4 with
  | none =>
    exact iff_of_true (by simp [pbTicks, pbLeader32, pbMode_of_unwritten h4]) (leaderBytes_unwritten_of_mode h4 4 8)
  | some b4 => rw [pbTicks_of_read h4, Memory.read64_eq_none, leaderBytes_unwritten h4]

theorem pbPacketId_eq_none (pb : Memory) :
    pbPacketId pb = none ↔ ∃ k ∈ 4 :: bytesByMode pb [5, 6, 7] [16, 17, 18, 19], pb.Unwritten k := by
  cases h4 : pb.read 4 with
  | none => exact iff_of_true (by simp [pbPacketId, pbMode_of_unwritten h4]) ⟨4, by simp, h4⟩
  | some b4 =>
    rw [bytesByMode_of_read h4]
    split
    · rename_i hm
      rw [pbPacketId_compact h4 hm, Option.map_eq_none_iff, Memory.read32_eq_none]
      constructor
      · rintro ⟨j, hj, h⟩
        exact ⟨4 + j, by simp; omega, h⟩
      · rintro ⟨k, hk, h⟩
        exact ⟨k - 4, by simp at hk; omega, by rwa [Nat.add_sub_cancel' (by simp at hk; omega)]⟩
    · rename_i hm
      rw [pbPacketId_extended h4 (Nat.not_lt.1 hm), Memory.read32_eq_none]
      constructor
      · rintro ⟨j, hj, h⟩
        exact ⟨16 + j, by simp; omega, h⟩
      · rintro ⟨k, hk, h⟩
        rcases List.mem_cons.1 hk with rfl | hk
        · rw [Memory.Unwritten, h4] at h; cases h
        · exact ⟨k - 16, by simp at hk; omega, by rwa [Nat.add_sub_cancel' (by simp at hk; omega)]⟩

theorem pbFrameId_eq_none (pb : Memory) :
    pbFrameId pb = none ↔ ∃ k ∈ 4 :: bytesByMode pb [2, 3] [8, 9, 10, 11, 12, 13, 14, 15], pb.Unwritten k := by
  cases h4 : pb.read 4 with
  | none => exact iff_of_true (by simp [pbFrameId, pbMode_of_unwritten h4]) ⟨4, by simp, h4⟩
  | some b4 =>
    rw [bytesByMode_of_read h4]
    split
    · rename_i hm
      rw [pbFrameId_compact h4 hm, Option.map_eq_none_iff, Memory.read16_eq_none]
      constructor
      · rintro ⟨j, hj, h⟩
        exact ⟨2 + j, by simp; omega, h⟩
      · rintro ⟨k, hk, h⟩
        rcases List.mem_cons.1 hk with rfl | hk
        · rw [Memory.Unwritten, h4] at h; cases h
        · exact ⟨k - 2, by simp at hk; omega, by rwa [Nat.add_sub_cancel' (by simp at hk; omega)]⟩
    · rename_i hm
      rw [pbFrameId_extended h4 (Nat.not_lt.1 hm), Memory.read64_eq_none]
      constructor
      · rintro ⟨j, hj, h⟩
        exact ⟨8 + j, by simp; omega, h⟩
      · rintro ⟨k, hk, h⟩
        rcases List.mem_cons.1 hk with rfl | hk
        · rw [Memory.Unwritten, h4] at h; cases h
        · exact ⟨k - 8, by simp at hk; omega, by rwa [Nat.add_sub_cancel' (by simp at hk; omega)]⟩

/-- CLASSIFY has no value exactly where one of its three bytes is unwritten. -/
theorem execClassify_eq_fault (s : State) :
    execClassify s = .fault .unwrittenRead ↔ ∃ k ∈ [0, 1, 4], s.pb.Unwritten k := by
  have h3 : (∃ k ∈ [0, 1, 4], s.pb.Unwritten k) ↔ (∃ k ∈ [0, 1], s.pb.Unwritten k) ∨ s.pb.read 4 = none := by
    simp [or_assoc]
  rw [h3, ← pbStatus_eq_none, execClassify, answerRead_eq_fault]
  cases h0 : pbStatus s.pb <;> cases h4 : s.pb.read 4 <;> simp [pbMode, pbContentType, h4]

theorem execGetDataSize_eq_fault (s : State) :
    execGetDataSize s = .fault .unwrittenRead ↔ 8 ≤ s.pktLen.toNat ∧ s.pb.read 4 = none := by
  unfold execGetDataSize
  rcases Nat.lt_or_ge s.pktLen.toNat 8 with h | h
  · simp [h]
  · cases h4 : s.pb.read 4 with
    | none => simp [h, Nat.not_lt.2 h, pbMode_of_unwritten h4]
    | some b4 =>
      simp only [Nat.not_lt.2 h, if_false, pbMode_of_read h4]
      split <;> simp

/-- A command faults exactly where one of the PB bytes its rule names is unwritten (20_memory.md R67; log 4). -/
theorem exec_eq_fault (i : Instr) (s : State) :
    exec i s = .fault .unwrittenRead ↔ ∃ k ∈ namedBytes s i, s.pb.Unwritten k := by
  by_cases he : i ∈ encoders
  · have hb : namedBytes s i = [] := by
      simp only [encoders, List.mem_cons, List.not_mem_nil, or_false] at he
      rcases he with rfl | rfl | rfl <;> rfl
    rw [exec_encoder he, hb]
    unfold encodePacket
    split <;> simp
  · cases i <;> simp only [exec, namedBytes]
    case encLeader | encTrailer | encDataBlock => simp at he
    case nop => simp [execNop]
    case isError | mapBufferKind | scaleTs | bswap16 | bswap32 | bswap64 =>
      simp [execIsError, execMapBufferKind, execScaleTs, execBswap16, execBswap32, execBswap64]
    case classify => exact execClassify_eq_fault s
    case getPacketType =>
      rw [execGetPacketType, answerRead_eq_fault, Option.map_eq_none_iff, pbStatus_eq_none]
    case getHeaderMode => simp [execGetHeaderMode, answerRead_eq_fault, pbMode_eq_none]
    case getContentType => simp [execGetContentType, answerRead_eq_fault, pbContentType_eq_none]
    case getDataOffset => simp [execGetDataOffset, answerRead_eq_fault, pbMode_eq_none]
    case getDataSize =>
      rw [execGetDataSize_eq_fault]
      split
      · simp; omega
      · rename_i h; simp [Nat.not_lt.1 h]
    case getPacketId =>
      rw [execGetPacketId, answerRead_eq_fault, Option.map_eq_none_iff, pbPacketId_eq_none]
    case getFrameId => rw [execGetFrameId, answerRead_eq_fault, pbFrameId_eq_none]
    case getPayloadType => rw [execGetPayloadType, answerRead_eq_fault, Option.map_eq_none_iff, pbLeader16_eq_none]
    case getBufferKind => rw [execGetBufferKind, answerRead_eq_fault, Option.map_eq_none_iff, pbLeader16_eq_none]
    case getTsTicks => rw [execGetTsTicks, answerRead_eq_fault, pbTicks_eq_none]
    case getTsNs => rw [execGetTsNs, answerRead_eq_fault, Option.map_eq_none_iff, pbTicks_eq_none]
    case getPixelFormat | getWidth | getHeight | getXOffset | getYOffset =>
      first
        | rw [execGetPixelFormat, answerLeader32, answerRead_eq_fault, Option.map_eq_none_iff, pbLeader32_eq_none]
        | rw [execGetWidth, answerLeader32, answerRead_eq_fault, Option.map_eq_none_iff, pbLeader32_eq_none]
        | rw [execGetHeight, answerLeader32, answerRead_eq_fault, Option.map_eq_none_iff, pbLeader32_eq_none]
        | rw [execGetXOffset, answerLeader32, answerRead_eq_fault, Option.map_eq_none_iff, pbLeader32_eq_none]
        | rw [execGetYOffset, answerLeader32, answerRead_eq_fault, Option.map_eq_none_iff, pbLeader32_eq_none]

end Sys2Proof.Machine
end

