-- ==== Sys2Proof/Tests/Slice0.lean ====
section
/-! SUPPORT. Tests: each theorem checks a value printed in spec/95_test_vectors.md (cited by its V number) or a word written
out from the encoding of spec/30_encoding.md, on one step or one command. -/

namespace Sys2Proof.Tests

open Sys2Proof.Machine

/-! ## Helpers -/

/-- The next state, if there is one. -/
def nextOf (o : Host.Outcome State Fault Refusal) : Option State :=
  match o with
  | .next t => some t
  | _ => none

/-- Whether the machine stopped with the fault UNWRITTEN_READ. -/
def faulted (o : Host.Outcome State Fault Refusal) : Bool :=
  match o with
  | .fault .unwrittenRead => true
  | _ => false

/-- RESULT and STATUS of the next state. -/
def ends (o : Host.Outcome State Fault Refusal) : Option (Nat × Nat) :=
  (nextOf o).map (fun t => (t.result.toNat, t.status.toNat))

/-- A buffer whose first bytes are `bs`. -/
def bytesFrom (k : Nat) : List Byte → Memory
  | [] => []
  | b :: r => (k, b) :: bytesFrom (k + 1) r

/-- The reset machine with a packet in PB. -/
def withPacket (bs : List Byte) : State := { State.reset with pb := bytesFrom 0 bs }

/-- The reset machine with ARG and TICK_FREQ set. -/
def withArg (t f : DWord) : State :=
  { State.reset with
    argLo := t.extractLsb' 0 32, argHi := t.extractLsb' 32 32
    tickFreqLo := f.extractLsb' 0 32, tickFreqHi := f.extractLsb' 32 32 }

/-- The reset machine with one transaction issued. -/
def issuing (t : Txn) : State := { State.reset with pending := [.bus t] }

/-- The latest response. -/
def lastResponse (o : Host.Outcome State Fault Refusal) : Option Response := (nextOf o).bind (fun t => t.responses.head?)

/-- PB[0..n-1] of the next state, unwritten bytes as none. -/
def pbBytes (o : Host.Outcome State Fault Refusal) (n : Nat) : Option (List (Option Byte)) :=
  (nextOf o).map (fun t => (List.range n).map (fun k => t.pb.read k))

/-- The machine of V1 before ENC_LEADER. -/
def v1 : State :=
  { State.reset with
    encCap := 64#32, inFrameId := 7#16, inTsLo := 125#32, inPixelFormat := 0x01080001#32, inWidth := 640#32,
    inHeight := 480#32 }

/-- The 40 bytes of the V1 packet. -/
def v1Packet : List Byte :=
  [0x00, 0x00, 0x00, 0x07, 0x01, 0x00, 0x00, 0x00, 0x00, 0x00, 0x00, 0x01, 0x00, 0x00, 0x00, 0x00,
   0x00, 0x00, 0x00, 0x7D, 0x01, 0x08, 0x00, 0x01, 0x00, 0x00, 0x02, 0x80, 0x00, 0x00, 0x01, 0xE0,
   0x00, 0x00, 0x00, 0x00, 0x00, 0x00, 0x00, 0x00]

/-- The 52 bytes of the extended-mode leader of V20. -/
def v20Packet : List Byte :=
  [0x00, 0x00, 0xAB, 0xCD, 0x81, 0x00, 0x00, 0x00, 0x01, 0x23, 0x45, 0x67, 0x89, 0xAB, 0xCD, 0xEF,
   0x00, 0x00, 0x00, 0x2A, 0x00, 0x00, 0x40, 0x01, 0x00, 0x00, 0x00, 0x01, 0x00, 0x00, 0x00, 0x02,
   0x01, 0x08, 0x00, 0x01, 0x00, 0x00, 0x07, 0x80, 0x00, 0x00, 0x04, 0x38, 0x00, 0x00, 0x00, 0x10,
   0xFF, 0xFF, 0xFF, 0xF0]

/-- V1 decoded: PKT_LEN = 40, TICK_FREQ = 125. -/
def v1Decode : State := { withPacket v1Packet with pktLen := 40#32, tickFreqLo := 125#32 }

/-- V20 decoded: PKT_LEN = 52, TICK_FREQ = 10^9. -/
def v20 : State := { withPacket v20Packet with pktLen := 52#32, tickFreqLo := 1000000000#32 }

/-! ## Well-formedness: one refused input per check -/

theorem test_wf_pbSize_below_range : ¬ Params.Legal { defaultParams with pbSize := 63 } := by decide
theorem test_wf_pbSize_above_range : ¬ Params.Legal { defaultParams with pbSize := 65537, sbSize := 65536 } := by decide
theorem test_wf_sbSize_below_range : ¬ Params.Legal { defaultParams with sbSize := 9207 } := by decide
theorem test_wf_sbSize_above_range : ¬ Params.Legal { defaultParams with sbSize := 65537 } := by decide
theorem test_wf_default_params : defaultParams.Legal := by decide
/-- V34: RESERVED is not zero although the opcode is NOP. -/
theorem test_wf_reserved_bit : reservedIsZero 0x00000100#32 = false ∧ legalWord 0x00000100#32 = false := by decide
/-- V34: an unlisted opcode. -/
theorem test_wf_unlisted_opcode : opcodeIsListed 0x0000000A#32 = false ∧ legalWord 0x0000000A#32 = false := by decide
theorem test_wf_legal_word : legalWord 0x00000032#32 = true := by decide

/-! ## Decode: the words of 30_encoding.md R85 and R90, RESERVED [31:8] then OPCODE [7:0] -/

theorem test_decode_status_words :
    decode 0b00000000000000000000000000000000#32 = .ok .nop ∧
    decode 0b00000000000000000000000000000001#32 = .ok .classify ∧
    decode 0b00000000000000000000000000000010#32 = .ok .getHeaderMode ∧
    decode 0b00000000000000000000000000000011#32 = .ok .getPacketType ∧
    decode 0b00000000000000000000000000000100#32 = .ok .isError := ⟨rfl, rfl, rfl, rfl, rfl⟩

theorem test_decode_header_words :
    decode 0b00000000000000000000000000000101#32 = .ok .getContentType ∧
    decode 0b00000000000000000000000000000110#32 = .ok .getPacketId ∧
    decode 0b00000000000000000000000000000111#32 = .ok .getFrameId ∧
    decode 0b00000000000000000000000000001000#32 = .ok .getDataOffset ∧
    decode 0b00000000000000000000000000001001#32 = .ok .getDataSize := ⟨rfl, rfl, rfl, rfl, rfl⟩

theorem test_decode_leader_words :
    decode 0b00000000000000000000000000010000#32 = .ok .getPayloadType ∧
    decode 0b00000000000000000000000000010001#32 = .ok .getPixelFormat ∧
    decode 0b00000000000000000000000000010010#32 = .ok .getWidth ∧
    decode 0b00000000000000000000000000010011#32 = .ok .getHeight ∧
    decode 0b00000000000000000000000000010100#32 = .ok .getXOffset ∧
    decode 0b00000000000000000000000000010101#32 = .ok .getYOffset := ⟨rfl, rfl, rfl, rfl, rfl, rfl⟩

theorem test_decode_timestamp_words :
    decode 0b00000000000000000000000000010110#32 = .ok .getTsTicks ∧
    decode 0b00000000000000000000000000010111#32 = .ok .getTsNs ∧
    decode 0b00000000000000000000000000011000#32 = .ok .getBufferKind ∧
    decode 0b00000000000000000000000000011001#32 = .ok .mapBufferKind ∧
    decode 0b00000000000000000000000000011010#32 = .ok .scaleTs := ⟨rfl, rfl, rfl, rfl, rfl⟩

theorem test_decode_encoder_and_converter_words :
    decode 0b00000000000000000000000000100000#32 = .ok .encLeader ∧
    decode 0b00000000000000000000000000100001#32 = .ok .encTrailer ∧
    decode 0b00000000000000000000000000100010#32 = .ok .encDataBlock ∧
    decode 0b00000000000000000000000000110000#32 = .ok .bswap16 ∧
    decode 0b00000000000000000000000000110001#32 = .ok .bswap32 ∧
    decode 0b00000000000000000000000000110010#32 = .ok .bswap64 := ⟨rfl, rfl, rfl, rfl, rfl, rfl⟩

/-- V34: every word of the table is illegal. -/
theorem test_decode_illegal_words :
    ∀ w ∈ [0x0000000A#32, 0x0000000F#32, 0x0000001B#32, 0x0000001F#32, 0x00000023#32, 0x0000002F#32, 0x00000033#32,
           0x000000FF#32, 0x00000100#32, 0x00000120#32, 0x80000001#32, 0xFFFFFFFF#32],
      legalWord w = false ∧ (decode w).toOption = none := by
  intro w hw
  fin_cases hw <;> exact ⟨rfl, rfl⟩

theorem test_decodeTableWord :
    decodeTableWord 32 0x22 = some .encDataBlock ∧ decodeTableWord 32 0x122 = none ∧
    decodeTableWord 32 0x100000022 = none := ⟨rfl, rfl, rfl⟩

/-- The step takes the word placed for it as its first instruction. -/
theorem test_withFetchWord : ends (step (State.reset.withFetchWord 32 0x00)) = some (0, 0x00000001) := by decide

/-! ## Commands -/

/-- V35. -/
theorem test_nop_keeps_sticky_bits :
    ends (exec .nop { State.reset with status := 0x00010101#32, resultLo := 0x55#32 }) = some (0x55, 0x00000101) := by
  decide

/-- V34: an illegal word leaves RESULT. -/
theorem test_illegal_word_leaves_result :
    ends (step { issuing (wr32 0x00010#18 0x00000120#32) with resultLo := 0x55#32 }) = some (0x55, 0x00010101) := by decide

/-- V13. -/
theorem test_classify :
    ends (exec .classify (withPacket [0x80, 0x0C, 0x00, 0x00, 0x83])) = some (0x0303800C, 1) ∧
    ends (exec .classify (withPacket [0xFF, 0xFF, 0x00, 0x00, 0xFF])) = some (0x7F03FFFF, 1) ∧
    ends (exec .classify (withPacket [0x7F, 0xFF, 0x00, 0x00, 0x84])) = some (0x04017FFF, 1) := by decide

/-- V14. -/
theorem test_getHeaderMode :
    ends (exec .getHeaderMode (withPacket [0, 0, 0, 0, 0x7F])) = some (0, 1) ∧
    ends (exec .getHeaderMode (withPacket [0, 0, 0, 0, 0x80])) = some (1, 1) := by decide

/-- V10. -/
theorem test_getPacketType : ends (exec .getPacketType (withPacket [0x80, 0x0C])) = some (0x800C, 1) := by decide

/-- V15. -/
theorem test_isError :
    ends (exec .isError (withArg 0xFFFFFFFFFFFF7FFF#64 0#64)) = some (0, 1) ∧
    ends (exec .isError (withArg 0x0000000000018000#64 0#64)) = some (1, 1) := by decide

/-- V12, V14. -/
theorem test_getContentType :
    ends (exec .getContentType (withPacket [0, 0, 0, 0, 0x04])) = some (4, 1) ∧
    ends (exec .getContentType (withPacket [0, 0, 0, 0, 0xFF])) = some (0x7F, 1) := by decide

/-- V16. -/
theorem test_getPacketId_compact :
    ends (exec .getPacketId (withPacket [0, 0, 0, 0, 0x01, 0x12, 0x34, 0x56])) = some (0x00123456, 1) := by decide

/-- V16: PB[5..7] are ignored. -/
theorem test_getPacketId_extended :
    ends (exec .getPacketId (withPacket [0, 0, 0, 0, 0x83, 0xAA, 0xBB, 0xCC, 0, 0, 0, 0, 0, 0, 0, 0,
      0xDE, 0xAD, 0xBE, 0xEF])) = some (0xDEADBEEF, 1) := by decide

/-- V7, V17: a compact packet of 8 written bytes decodes without fault. -/
theorem test_getFrameId_compact :
    ends (exec .getFrameId (withPacket [0, 0, 0xFF, 0xFF, 0x01, 0, 0, 0])) = some (0xFFFF, 1) := by decide

/-- V7. -/
theorem test_getFrameId_extended :
    ends (exec .getFrameId (withPacket [0, 0, 0xAB, 0xCD, 0x81, 0, 0, 0, 0x01, 0x23, 0x45, 0x67, 0x89, 0xAB, 0xCD, 0xEF])) =
      some (0x0123456789ABCDEF, 1) := by decide

/-- V11. -/
theorem test_getDataOffset :
    ends (exec .getDataOffset (withPacket [0, 0, 0, 0, 0x01])) = some (8, 1) ∧
    ends (exec .getDataOffset (withPacket [0, 0, 0, 0, 0x81])) = some (20, 1) := by decide

/-- V18. -/
theorem test_getDataSize :
    ends (exec .getDataSize { withPacket [0, 0, 0, 0, 0x01] with pktLen := 8#32 }) = some (0, 1) ∧
    ends (exec .getDataSize { withPacket [0, 0, 0, 0, 0x01] with pktLen := 9216#32 }) = some (9208, 1) ∧
    ends (exec .getDataSize { withPacket [0, 0, 0, 0, 0x81] with pktLen := 19#32 }) = some (0, 0x00020201) ∧
    ends (exec .getDataSize { withPacket [0, 0, 0, 0, 0x81] with pktLen := 20#32 }) = some (0, 1) := by decide

/-- V19. -/
theorem test_getDataSize_unwritten :
    ends (exec .getDataSize { State.reset with pktLen := 7#32 }) = some (0, 0x00020201) ∧
    faulted (exec .getDataSize { State.reset with pktLen := 8#32 }) = true := by decide

/-- V20, V21. -/
theorem test_getPayloadType :
    ends (exec .getPayloadType v20) = some (0x4001, 1) ∧
    ends (exec .getPayloadType (withPacket [0, 0, 0, 7, 2, 0, 0, 5, 0, 0, 0, 1, 0, 0, 0, 0])) = some (1, 1) := by decide

/-- V1, V20. -/
theorem test_getPixelFormat :
    ends (exec .getPixelFormat v1Decode) = some (0x01080001, 1) ∧
    ends (exec .getPixelFormat v20) = some (0x01080001, 1) := by decide

/-- V21: the field lies past the trailer's bytes. -/
theorem test_getPixelFormat_unwritten :
    faulted (exec .getPixelFormat (withPacket [0, 0, 0, 7, 2, 0, 0, 5, 0, 0, 0, 1, 0, 0, 0, 0])) = true := by decide

/-- V1, V20. -/
theorem test_getWidth : ends (exec .getWidth v1Decode) = some (640, 1) ∧ ends (exec .getWidth v20) = some (1920, 1) := by
  decide

/-- V1, V20. -/
theorem test_getHeight :
    ends (exec .getHeight v1Decode) = some (480, 1) ∧ ends (exec .getHeight v20) = some (1080, 1) := by decide

/-- V1, V20. -/
theorem test_getXOffset :
    ends (exec .getXOffset v1Decode) = some (0, 1) ∧ ends (exec .getXOffset v20) = some (16, 1) := by decide

/-- V20: zero-extended, not sign-extended. -/
theorem test_getYOffset : ends (exec .getYOffset v20) = some (0xFFFFFFF0, 1) := by decide

/-- V23: the high word comes first. -/
theorem test_getTsTicks :
    ends (exec .getTsTicks (withPacket [0, 0, 0, 0, 0x01, 0, 0, 0, 0, 0, 0, 1,
      0x11, 0x22, 0x33, 0x44, 0x55, 0x66, 0x77, 0x88])) = some (0x1122334455667788, 1) := by decide

/-- V21: four of the eight bytes are unwritten. -/
theorem test_getTsTicks_unwritten :
    faulted (exec .getTsTicks (withPacket [0, 0, 0, 7, 2, 0, 0, 5, 0, 0, 0, 1, 0, 0, 0, 0])) = true := by decide

/-- V1, V20. -/
theorem test_getTsNs :
    ends (exec .getTsNs v1Decode) = some (1000000000, 1) ∧ ends (exec .getTsNs v20) = some (0x0000000100000002, 1) := by
  decide

/-- V22. -/
theorem test_getBufferKind :
    ends (exec .getBufferKind v20) = some (0x00004001, 1) ∧
    ends (exec .getBufferKind (withPacket [0, 0, 0, 0, 0x01, 0, 0, 0, 0, 0, 0x00, 0x0A])) = some (0xFFFFFFFF, 1) := by decide

/-- V5. -/
theorem test_mapBufferKind :
    ends (exec .mapBufferKind (withArg 0x14001#64 0#64)) = some (0x4001, 1) ∧
    ends (exec .mapBufferKind (withArg 0x0009#64 0#64)) = some (9, 1) ∧
    ends (exec .mapBufferKind (withArg 0x0000#64 0#64)) = some (0xFFFFFFFF, 1) ∧
    ends (exec .mapBufferKind (withArg 0x4002#64 0#64)) = some (0xFFFFFFFF, 1) := by decide

/-- V40, V42, V51, V55. -/
theorem test_scaleTs_exact :
    ends (exec .scaleTs (withArg 0xFFFFFFFFFFFFFFFF#64 0#64)) = some (0, 1) ∧
    ends (exec .scaleTs (withArg 5#64 3#64)) = some (1666666666, 1) ∧
    ends (exec .scaleTs (withArg 0xFFFFFFFFFFFFFFFF#64 0xFFFFFFFFFFFFFFFE#64)) = some (1000000000, 1) ∧
    ends (exec .scaleTs (withArg 36893488147#64 18446744074#64)) = some (1999999999, 1) := by decide

/-- V56, V57, V59, V60: the products wrap. -/
theorem test_scaleTs_wraps :
    ends (exec .scaleTs (withArg 18446744074#64 1#64)) = some (290448384, 1) ∧
    ends (exec .scaleTs (withArg 0xFFFFFFFFFFFFFFFF#64 1#64)) = some (0xFFFFFFFFC4653600, 1) ∧
    ends (exec .scaleTs (withArg 0x000000FFFFFFFFFF#64 0x0000010000000000#64)) = some (10144255, 1) ∧
    ends (exec .scaleTs (withArg 18446744074#64 18446744075#64)) = some (0, 1) := by decide

/-- V1. -/
theorem test_encLeader_bytes :
    ends (exec .encLeader v1) = some (40, 1) ∧
    pbBytes (exec .encLeader v1) 41 = some (v1Packet.map some ++ [none]) := by decide

/-- V25. -/
theorem test_encLeader_one_byte_short :
    ends (exec .encLeader { v1 with encCap := 39#32 }) = some (0, 0x00030401) ∧
    (nextOf (exec .encLeader { v1 with encCap := 39#32 })).map State.pb = some [] := by decide

/-- V26. -/
theorem test_encTrailer_bytes :
    ends (exec .encTrailer { State.reset with inFrameId := 7#16, inPacketId := 5#32, encCap := 16#32 }) = some (16, 1) ∧
    pbBytes (exec .encTrailer { State.reset with inFrameId := 7#16, inPacketId := 5#32, encCap := 16#32 }) 17 =
      some ([0x00, 0x00, 0x00, 0x07, 0x02, 0x00, 0x00, 0x05, 0x00, 0x00, 0x00, 0x01, 0x00, 0x00, 0x00, 0x00].map some ++
        [none]) := by decide

/-- V26. -/
theorem test_encTrailer_one_byte_short :
    ends (exec .encTrailer { State.reset with encCap := 15#32 }) = some (0, 0x00030401) := by decide

/-- V27 case d: a short request leaves the bytes behind it. -/
theorem test_encDataBlock_bytes :
    pbBytes (exec .encDataBlock { State.reset with
      inFrameId := 1#16, inPacketId := 2#32, inDataLen := 3#32, encCap := 64#32
      sb := bytesFrom 0 [0xAA, 0xBB, 0xCC, 0xDD], pb := bytesFrom 0 (List.replicate 16 0xEE) }) 13 =
      some ([0x00, 0x00, 0x00, 0x01, 0x03, 0x00, 0x00, 0x02, 0xAA, 0xBB, 0xCC, 0xEE, 0xEE].map some) := by decide

/-- V28: an unwritten SB byte is copied as unwritten, without a fault. -/
theorem test_encDataBlock_copies_unwritten_bytes :
    ends (exec .encDataBlock { State.reset with
      inFrameId := 1#16, inPacketId := 2#32, inDataLen := 4#32, encCap := 64#32, sb := bytesFrom 0 [0xAA, 0xBB]
      pb := bytesFrom 0 (List.replicate 16 0xEE) }) = some (12, 1) ∧
    pbBytes (exec .encDataBlock { State.reset with
      inFrameId := 1#16, inPacketId := 2#32, inDataLen := 4#32, encCap := 64#32, sb := bytesFrom 0 [0xAA, 0xBB]
      pb := bytesFrom 0 (List.replicate 16 0xEE) }) 13 =
      some ([0x00, 0x00, 0x00, 0x01, 0x03, 0x00, 0x00, 0x02, 0xAA, 0xBB].map some ++ [none, none, some 0xEE]) := by decide

/-- V30. -/
theorem test_bswap16 : ends (exec .bswap16 (withArg 0xFFFFFFFFFFFF1234#64 0#64)) = some (0x3412, 1) := by decide

/-- V31. -/
theorem test_bswap32 : ends (exec .bswap32 (withArg 0xFFFFFFFF12345678#64 0#64)) = some (0x78563412, 1) := by decide

/-- V32. -/
theorem test_bswap64 : ends (exec .bswap64 (withArg 0xEFCDAB8967452301#64 0#64)) = some (0x0123456789ABCDEF, 1) := by
  decide

/-! ## The port -/

/-- V39. -/
theorem test_pktLen_clamps :
    (nextOf (step (issuing (wr32 0x00018#18 0xFFFFFFFF#32)))).map (fun t => t.pktLen.toNat) = some 9216 ∧
    (nextOf (step (issuing (wr32 0x0001C#18 100000#32)))).map (fun t => t.encCap.toNat) = some 9216 := by decide

/-- V29. -/
theorem test_inFrameId_keeps_16_bits :
    (nextOf (step (issuing (wr32 0x00040#18 0x12345678#32)))).map (fun t => regRead t .inFrameId) =
      some 0x00005678#32 := by decide

/-- V38. -/
theorem test_status_w1c :
    (nextOf (step { issuing (wr32 0x00014#18 0x00000100#32) with status := 0x00030F01#32 })).map State.status =
      some 0x00030E01#32 ∧
    (nextOf (step { issuing (wr32 0x00014#18 0xFFFFFFFF#32) with status := 0x00030F01#32 })).map State.status =
      some 0x00030000#32 := by decide

/-- V61: every refused transaction of the table gets the ERROR response and sets E_BUS alone. -/
theorem test_refused_transactions :
    ∀ t ∈ [rd16 0x00014#18, wr16 0x00010#18 0x0020#32, wr16 0x00014#18 0x0F01#32, wr16 (pbAddr 1) 0xAAAA#32,
           wr32 (pbAddr 2) 0#32, wr8 (pbAddr 9216) 1#32, wr32 (sbAddr 9216) 0#32, rd32 0x30000#18],
      (lastResponse (step (issuing t))).map Response.isError = some true ∧
      ends (step (issuing t)) = some (0, 0x00000800) := by decide

/-- V61: the last legal bytes are accepted. -/
theorem test_last_legal_bytes :
    lastResponse (step (issuing (wr8 (pbAddr 9215) 1#32))) = some (.writeDone .okay) ∧
    lastResponse (step (issuing (wr16 (pbAddr 9214) 1#32))) = some (.writeDone .okay) := by decide

/-- V33, V62: lanes. -/
theorem test_window_lanes :
    pbBytes (step (issuing (wr32 (pbAddr 0) 0x01234567#32))) 4 = some [some 0x67, some 0x45, some 0x23, some 0x01] ∧
    lastResponse (step { issuing (rd16 (pbAddr 10)) with pb := bytesFrom 10 [0x45, 0x67] }) =
      some (.readDone .okay 0x6745#32) := by decide

/-- V62. -/
theorem test_window_read_unwritten : faulted (step (issuing (rd16 (pbAddr 10)))) = true := by decide

/-- The notation of 30_encoding.md R97: a command is a 32-bit write of its word to CMD, and a pair is written low first. -/
theorem test_notation :
    cmd .encLeader = .write 0x00010#18 .word 0x00000020#32 ∧
    clr = .write 0x00014#18 .word 0x00000F01#32 ∧
    wr64 0x00048#18 125#64 = [.write 0x00048#18 .word 125#32, .write 0x0004C#18 .word 0#32] ∧
    ldpb 2 [0xAB, 0xCD] = [.write 0x10002#18 .byte 0xAB#32, .write 0x10003#18 .byte 0xCD#32] := by decide

/-- R97: `rd64` leaves H : L. -/
theorem test_rd64_value :
    readValue64 (.readDone .okay 0x89ABCDEF#32) (.readDone .okay 0x01234567#32) = some 0x0123456789ABCDEF#64 ∧
    { State.reset with responses := [.readDone .okay 0x01234567#32, .readDone .okay 0x89ABCDEF#32] }.lastRead64 =
      some 0x0123456789ABCDEF#64 := by decide

/-- The reset input: asserting it clears a register and marks PB unwritten; a transaction waits for the release. -/
theorem test_reset_input :
    (nextOf (step { withPacket [1, 2] with pktLen := 5#32, pending := [.assertReset] })).map
      (fun t => (t.pktLen.toNat, t.pb.read 0, t.resetAsserted)) = some (0, none, true) ∧
    (nextOf (step { issuing clr with resetAsserted := true })).map (fun t => t.pending.length) = some 1 := by decide

/-! ## Witnesses: for each statement with hypotheses, a concrete state and operands that meet them together -/

/-- Bytes in a row, checked one by one. -/
theorem holdsOf {m : Memory} {a : Nat} {bs : List Byte}
    (h : (List.range bs.length).all (fun j => m.read (a + j) == bs[j]?) = true) : m.Holds a bs := by
  intro j b hj
  have hl : j < bs.length := (List.getElem?_eq_some_iff.1 hj).1
  have := List.all_eq_true.1 h j (List.mem_range.2 hl)
  rw [eq_of_beq this, hj]

/-- A machine with both buffers holding bytes at their ends. -/
def atEnds (t : Txn) : State :=
  { issuing t with pb := bytesFrom 9212 [1, 2, 3, 4], sb := bytesFrom 9212 [5, 6, 7, 8] }

theorem witness_ResetLeavesTheStatedValues :
    ((0x000, 0x47565350#32) ∈ resetValues defaultParams ∧
      (0x008, BitVec.ofNat 32 defaultParams.pbSize) ∈ resetValues defaultParams ∧
      (0x064, 0#32) ∈ resetValues defaultParams) ∧
    defaultParams = { pbSize := 9216, sbSize := 9216, leaderPtype := 0x0001#16, trailerPtype := 0x00000001#32 } := by
  decide

theorem witness_AssertedResetClearsAndHoldsThePort :
    { withPacket [1] with pending := [.assertReset, .bus clr] }.pending = .assertReset :: [.bus clr] ∧
    ({ issuing clr with resetAsserted := true }.resetAsserted = true ∧
      { issuing clr with resetAsserted := true }.pending = .bus clr :: [] ∧ HostEvent.releaseReset ∉ ([] : List HostEvent)) ∧
    [HostEvent.bus clr, .releaseReset, .assertReset] = [clr].map HostEvent.bus ++ .releaseReset :: [.assertReset] ∧
    { State.reset with resetAsserted := true, pending := [.releaseReset] }.pending = .releaseReset :: [] := by decide

theorem witness_FreshMachineScalesToZeroAndFailsSizeAndCap : ∀ i ∈ [Instr.encLeader, .encTrailer, .encDataBlock], i ∈ encoders := by
  decide

theorem witness_HardwiredRegistersReadTheirConstants :
    ∀ c ∈ [(0x00000#18, 0x47565350#32), (0x00004#18, 0x00010000#32), (0x00008#18, 9216#32), (0x0000C#18, 9216#32)],
      (issuing (rd32 c.1)).Issues (.read c.1 .word) [] ∧ (issuing (wr32 c.1 5#32)).Issues (.write c.1 .word 5#32) [] :=
  fun _ _ => ⟨⟨rfl, rfl⟩, rfl, rfl⟩

theorem witness_RegisterWritesStore :
    (∃ upd, (0x00018#18, upd) ∈ writeEffects) ∧ (∃ upd, (0x00064#18, upd) ∈ writeEffects) ∧
    (issuing (wr32 0x00018#18 0xFFFFFFFF#32)).Issues (.write 0x00018#18 .word 0xFFFFFFFF#32) [] ∧
    (issuing (wr32 0x00064#18 7#32)).Issues (.write 0x00064#18 .word 7#32) [] :=
  ⟨⟨_, List.mem_of_getElem? (i := 0) rfl⟩, ⟨_, List.mem_of_getElem? (i := 17) rfl⟩, ⟨rfl, rfl⟩, ⟨rfl, rfl⟩⟩

theorem witness_RegisterReadsReturnTheRegister :
    (∃ get, (0x00010#18, get) ∈ readAnswers) ∧ (∃ get, (0x00064#18, get) ∈ readAnswers) ∧
    (issuing (rd32 0x00010#18)).Issues (.read 0x00010#18 .word) [] ∧
    (issuing (rd32 0x00064#18)).Issues (.read 0x00064#18 .word) [] :=
  ⟨⟨_, List.mem_of_getElem? (i := 0) rfl⟩, ⟨_, List.mem_of_getElem? (i := 19) rfl⟩, ⟨rfl, rfl⟩, ⟨rfl, rfl⟩⟩

theorem witness_StatusWriteOneClears :
    { issuing (wr32 0x00014#18 0x00000100#32) with status := 0x00030F01#32 }.Issues
      (.write 0x00014#18 .word 0x00000100#32) [] := by decide

theorem witness_ReservedOffsetsReadZeroIgnoreWrites :
    ∀ a ∈ [0x00038#18, 0x0003C#18, 0x00068#18, 0x0FFFC#18],
      a.toNat < 0x10000 ∧ a.toNat % 4 = 0 ∧ (a.toNat = 0x038 ∨ a.toNat = 0x03C ∨ 0x068 ≤ a.toNat) ∧
      (issuing (rd32 a)).Issues (.read a .word) [] ∧ (issuing (wr32 a 123#32)).Issues (.write a .word 123#32) [] := by
  intro a ha
  refine ⟨?_, ?_, ?_, ⟨rfl, rfl⟩, rfl, rfl⟩ <;> fin_cases ha <;> decide

theorem witness_PktLenIsClampedAndReadByDataSizeAlone :
    State.reset.params.Legal ∧ (issuing (wr32 0x00018#18 9217#32)).Issues (.write 0x00018#18 .word 9217#32) [] ∧
    (issuing (rd32 0x00018#18)).Issues (.read 0x00018#18 .word) [] ∧ Instr.nop ≠ .getDataSize := by decide

/-- Each way of R52, at the boundary of its range, for a read and for a write. -/
theorem witness_RefusedTransactionsOnlySetBusError :
    ∀ c ∈ [(0x00010#18, Width.half), (0x00011#18, .word), (0x0FFFF#18, .byte), (0x10001#18, .half), (pbAddr 9216, .byte),
           (0x1FFFF#18, .byte), (0x20002#18, .word), (sbAddr 9216, .word), (0x2FFFF#18, .byte), (0x30000#18, .word),
           (0x3FFFF#18, .byte)],
      PortRefuses State.reset.params c.1 c.2 ∧ (issuing (.read c.1 c.2)).Issues (.read c.1 c.2) [] ∧
      (issuing (.write c.1 c.2 1#32)).Issues (.write c.1 c.2 1#32) [] := by
  intro c hc
  refine ⟨(decodeAccess_eq_none _ _ _).1 ?_, ⟨rfl, rfl⟩, rfl, rfl⟩
  fin_cases hc <;> rfl

/-- The four transactions that need no byte answer, the refused read with ERROR; the last three each need one unwritten byte:
a PB read whose second byte is missing, the same of SB, and CLASSIFY without PB[4]. -/
theorem witness_EveryTransactionCompletes :
    (∀ t ∈ [rd32 0x00014#18, rd32 0x30000#18, wr32 0x00010#18 0x00000120#32, cmd .nop],
      (issuing t).Issues t [] ∧ ¬ NeedsUnwritten (issuing t) t) ∧
    PortRefuses State.reset.params (rd32 0x30000#18).addr (rd32 0x30000#18).width ∧
    NeedsUnwritten { issuing (rd16 (pbAddr 0)) with pb := [(0, 1)] } (rd16 (pbAddr 0)) ∧
    NeedsUnwritten { issuing (rd16 (sbAddr 9214)) with sb := [(9214, 1)] } (rd16 (sbAddr 9214)) ∧
    NeedsUnwritten { withPacket [0, 0] with pending := [.bus (cmd .classify)] } (cmd .classify) := by
  have refused : PortRefuses State.reset.params 0x30000#18 .word := (decodeAccess_eq_none _ _ _).1 rfl
  have taken : ∀ (a : PortAddr) (w : Width), (decodeAccess State.reset.params a w).isSome = true →
      ¬ PortRefuses State.reset.params a w := fun a w h hr => by
    rw [(decodeAccess_eq_none _ _ _).2 hr] at h
    cases h
  have k0 : (pbAddr 0).toNat - 0x10000 + 1 = 1 := by decide
  have k1 : (sbAddr 9214).toNat - 0x20000 + 1 = 9215 := by decide
  refine ⟨fun t ht => ⟨⟨rfl, rfl⟩, fun hn => ?_⟩, refused,
    ⟨taken _ _ rfl, .inl ⟨by decide, by decide, 1, by decide, by rw [k0]; rfl⟩⟩,
    ⟨taken _ _ rfl, .inr ⟨by decide, by decide, 1, by decide, by rw [k1]; rfl⟩⟩,
    rfl, rfl, .classify, rfl, 4, by decide, rfl⟩
  simp only [List.mem_cons, List.not_mem_nil, or_false] at ht
  rcases ht with rfl | rfl | rfl | rfl
  · obtain ⟨-, ⟨h, -⟩ | ⟨h, -⟩⟩ := hn <;> exact absurd h (by decide)
  · exact hn.1 refused
  · obtain ⟨-, -, i, hd, -⟩ := hn
    cases hd
  · obtain ⟨-, -, i, hd, k, hk, -⟩ := hn
    cases hd
    cases hk

/-- The first and the last place of each window, for each width. -/
theorem witness_WindowWritesPutLanes :
    State.reset.params.Legal ∧
    ∀ c ∈ [(0, Width.byte), (9215, Width.byte), (9214, Width.half), (0, Width.word), (9212, Width.word)],
      c.1 % c.2.bytes = 0 ∧ c.1 + c.2.bytes ≤ State.reset.params.pbSize ∧ c.1 + c.2.bytes ≤ State.reset.params.sbSize ∧
      (issuing (.write (BitVec.ofNat 18 (0x10000 + c.1)) c.2 9#32)).Issues
        (.write (BitVec.ofNat 18 (0x10000 + c.1)) c.2 9#32) [] ∧
      (issuing (.write (BitVec.ofNat 18 (0x20000 + c.1)) c.2 9#32)).Issues
        (.write (BitVec.ofNat 18 (0x20000 + c.1)) c.2 9#32) [] := by
  refine ⟨by decide, fun c hc => ⟨?_, ?_, ?_, ⟨rfl, rfl⟩, rfl, rfl⟩⟩ <;> fin_cases hc <;> decide

theorem witness_WindowReadsReturnLanes :
    (atEnds (rd32 (pbAddr 9212))).params.Legal ∧
    (9212 % Width.word.bytes = 0 ∧ 9212 + Width.word.bytes ≤ (atEnds (rd32 (pbAddr 9212))).params.pbSize ∧
      (atEnds (rd32 (pbAddr 9212))).Issues (.read (BitVec.ofNat 18 (0x10000 + 9212)) .word) [] ∧
      [1, 2, 3, 4].length = Width.word.bytes ∧ (atEnds (rd32 (pbAddr 9212))).pb.Holds 9212 [1, 2, 3, 4]) ∧
    (9214 % Width.half.bytes = 0 ∧ 9214 + Width.half.bytes ≤ (atEnds (rd16 (sbAddr 9214))).params.sbSize ∧
      (atEnds (rd16 (sbAddr 9214))).Issues (.read (BitVec.ofNat 18 (0x20000 + 9214)) .half) [] ∧
      [7, 8].length = Width.half.bytes ∧ (atEnds (rd16 (sbAddr 9214))).sb.Holds 9214 [7, 8]) ∧
    (∃ i < Width.byte.bytes, (atEnds (rd8 (pbAddr 9211))).pb.Unwritten (9211 + i)) :=
  ⟨by decide, ⟨by decide, by decide, by decide, by decide, holdsOf rfl⟩,
    ⟨by decide, by decide, by decide, by decide, holdsOf rfl⟩, ⟨0, by decide, rfl⟩⟩

theorem witness_PairReadFormsHighAndLow :
    0x00048#18 ∈ [0x00020#18, 0x00028#18, 0x00048#18] ∧ State.reset.resetAsserted = false ∧ State.reset.pending = [] := by
  decide

theorem witness_AcceptedReadsHaveNoSideEffect :
    ¬ PortRefuses State.reset.params 0x00014#18 .word ∧ (issuing (rd32 0x00014#18)).Issues (.read 0x00014#18 .word) [] ∧
    ∃ t, step (issuing (rd32 0x00014#18)) = .next t := by
  refine ⟨?_, ⟨rfl, rfl⟩, _, rfl⟩
  unfold PortRefuses
  decide

theorem witness_IdlingChangesNothing : State.reset.pending = [] := rfl

theorem witness_DecodeAndEncodeAgree :
    Instr.bswap64.wf = true ∧ decode 0x00000032#32 = .ok .bswap64 ∧ WordIllegal 0x00000033#32 :=
  ⟨rfl, rfl, by unfold WordIllegal; decide⟩

/-- A command that answers and one that faults. -/
theorem witness_StepRunsTheDecodedCommand :
    (issuing (cmd .nop)).Issues (.write 0x00010#18 .word 0x00000000#32) [] ∧ decode 0x00000000#32 = .ok .nop ∧
    (issuing (cmd .classify)).Issues (.write 0x00010#18 .word 0x00000001#32) [] ∧
    decode 0x00000001#32 = .ok .classify ∧ faulted (step (issuing (cmd .classify))) = true :=
  ⟨⟨rfl, rfl⟩, rfl, ⟨rfl, rfl⟩, rfl, rfl⟩

/-- Both ends of every gap of R89, and the least word with a reserved bit. -/
theorem witness_IllegalWordsRaiseIllegal :
    (∀ w ∈ [0x0000000A#32, 0x0000000F#32, 0x0000001B#32, 0x0000001F#32, 0x00000023#32, 0x0000002F#32, 0x00000033#32,
           0x000000FF#32, 0x00000100#32, 0xFFFFFFFF#32],
      WordIllegal w ∧ (issuing (wr32 0x00010#18 w)).Issues (.write 0x00010#18 .word w) []) ∧
    (∀ c ∈ [(0x00010#18, Width.byte), (0x00010#18, Width.half), (0x00011#18, Width.word), (0x00013#18, Width.byte)],
      c.1.toNat / 4 = 0x10 / 4 ∧ (c.2 ≠ .word ∨ c.1.toNat % 4 ≠ 0) ∧
      (issuing (.write c.1 c.2 0x20#32)).Issues (.write c.1 c.2 0x20#32) []) := by
  refine ⟨fun w hw => ⟨?_, rfl, rfl⟩, fun c hc => ⟨?_, ?_, rfl, rfl⟩⟩
  · unfold WordIllegal
    fin_cases hw <;> decide
  · fin_cases hc <;> decide
  · fin_cases hc <;> decide

theorem witness_ClassifyPacksStatusModeAndType :
    (withPacket [0x80, 0x0C, 0, 0, 0x83]).pb.read 0 = some 0x80 ∧ (withPacket [0x80, 0x0C, 0, 0, 0x83]).pb.read 1 = some 0x0C ∧
    (withPacket [0x80, 0x0C, 0, 0, 0x83]).pb.read 4 = some 0x83 := by decide

theorem witness_HeaderModePacketTypeContentTypeAndOffset :
    v20.pb.read 0 = some 0x00 ∧ v20.pb.read 1 = some 0x00 ∧ v20.pb.read 4 = some 0x81 := by decide

/-- The last compact byte 4 and the first extended one. -/
theorem witness_PacketIdByHeaderMode :
    (0x7F#8).toNat < 128 ∧ (withPacket [0, 0, 0, 0, 0x7F, 1, 2, 3]).pb.Holds 4 [0x7F, 1, 2, 3] ∧
    128 ≤ (0x80#8).toNat ∧
    (withPacket ([0, 0, 0, 0, 0x80] ++ List.replicate 11 0 ++ bytes32 0xDEADBEEF#32)).pb.read 4 = some 0x80 ∧
    (withPacket ([0, 0, 0, 0, 0x80] ++ List.replicate 11 0 ++ bytes32 0xDEADBEEF#32)).pb.Holds 16
      (bytes32 0xDEADBEEF#32) :=
  ⟨by decide, holdsOf rfl, by decide, rfl, holdsOf rfl⟩

theorem witness_FrameIdByHeaderMode :
    (0x7F#8).toNat < 128 ∧ (withPacket [0, 0, 0xFF, 0xFF, 0x7F]).pb.read 4 = some 0x7F ∧
    (withPacket [0, 0, 0xFF, 0xFF, 0x7F]).pb.Holds 2 (bytes16 0xFFFF#16) ∧
    128 ≤ (0x80#8).toNat ∧
    (withPacket ([0, 0, 0, 0, 0x80, 0, 0, 0] ++ bytes64 0x0123456789ABCDEF#64)).pb.read 4 = some 0x80 ∧
    (withPacket ([0, 0, 0, 0, 0x80, 0, 0, 0] ++ bytes64 0x0123456789ABCDEF#64)).pb.Holds 8
      (bytes64 0x0123456789ABCDEF#64) :=
  ⟨by decide, rfl, holdsOf rfl, by decide, rfl, holdsOf rfl⟩

/-- PKT_LEN at 7, 8, 19 and 20, in both modes, in states that meet the range premises. -/
theorem witness_DataSizeOrSizeError :
    ({ v20 with pktLen := 7#32 }.pktLen.toNat < 8) ∧
    (∀ c ∈ [(0x7F#8, 8#32), (0x7F#8, 20#32), (0x80#8, 19#32), (0x80#8, 20#32)],
      8 ≤ { withPacket [0, 0, 0, 0, c.1] with pktLen := c.2 }.pktLen.toNat ∧
      { withPacket [0, 0, 0, 0, c.1] with pktLen := c.2 }.pb.read 4 = some c.1 ∧
      { withPacket [0, 0, 0, 0, c.1] with pktLen := c.2 }.params.Legal ∧
      { withPacket [0, 0, 0, 0, c.1] with pktLen := c.2 }.WarlLegal ∧
      (nextOf (exec .getDataSize { withPacket [0, 0, 0, 0, c.1] with pktLen := c.2 })).isSome = true) := by
  refine ⟨by decide, fun c hc => ?_⟩
  fin_cases hc <;> exact ⟨by decide, rfl, by decide, by decide, rfl⟩

theorem witness_CompactIdsInRangeAndTypeIgnoresMode :
    v1Decode.pb.read 4 = some 0x01#8 ∧ (0x01#8).toNat < 128 ∧ (∃ t, exec .getFrameId v1Decode = .next t) ∧
    (∃ t, exec .getPacketId v1Decode = .next t) ∧ (0x03#8).toNat % 128 = (0x83#8).toNat % 128 :=
  ⟨rfl, by decide, ⟨_, rfl⟩, ⟨_, rfl⟩, by decide⟩

theorem witness_LeaderWordFields :
    (Instr.getYOffset, 0x00000015#32, 28) ∈
      [(Instr.getPixelFormat, 0x00000011#32, 12), (.getWidth, 0x00000012#32, 16), (.getHeight, 0x00000013#32, 20),
        (.getXOffset, 0x00000014#32, 24), (.getYOffset, 0x00000015#32, 28)] ∧
    v20.pb.read 4 = some 0x81#8 ∧ v20.pb.Holds (payloadAt 0x81#8 + 28) (bytes32 0xFFFFFFF0#32) :=
  ⟨by decide, rfl, holdsOf rfl⟩

theorem witness_PayloadTypeAndBufferKind :
    v20.pb.read 4 = some 0x81#8 ∧ v20.pb.Holds (payloadAt 0x81#8 + 2) (bytes16 0x4001#16) ∧
    v1Decode.pb.read 4 = some 0x01#8 ∧ v1Decode.pb.Holds (payloadAt 0x01#8 + 2) (bytes16 0x0001#16) :=
  ⟨rfl, holdsOf rfl, rfl, holdsOf rfl⟩

theorem witness_LeaderTicksAndNanoseconds :
    (v20.pb.read 4 = some 0x81#8 ∧ v20.pb.Holds (payloadAt 0x81#8 + 4) (bytes32 1#32 ++ bytes32 2#32)) ∧
    (withPacket (v20Packet.take 31)).pb.read 4 = some 0x81#8 ∧ (withPacket (v20Packet.take 31)).tickFreqHi = 0#32 ∧
    (withPacket (v20Packet.take 31)).tickFreqLo = 0#32 ∧
    ∃ j < 8, (withPacket (v20Packet.take 31)).pb.Unwritten (payloadAt 0x81#8 + 4 + j) :=
  ⟨⟨rfl, holdsOf rfl⟩, rfl, rfl, rfl, 7, by decide, rfl⟩

/-- V53 and V55 stand at the ends of the range, V46 is one second of ticks. -/
theorem witness_ScalerExactInItsRange :
    (∀ c ∈ [(18446744072999#64, 1000#64), (36893488147#64, 18446744074#64)],
      1 ≤ (withArg c.1 c.2).tickFreq.toNat ∧ (withArg c.1 c.2).tickFreq.toNat ≤ 18446744074 ∧
      (withArg c.1 c.2).arg.toNat / (withArg c.1 c.2).tickFreq.toNat ≤ 18446744072) ∧
    1 ≤ (withArg 1000#64 1000#64).tickFreq.toNat ∧
    (withArg 1000#64 1000#64).arg = (withArg 1000#64 1000#64).tickFreq := by
  refine ⟨fun c hc => ?_, by decide, rfl⟩
  fin_cases hc <;> exact ⟨by decide, by decide, by decide⟩

theorem witness_EncLeaderWritesFortyBytes :
    40 ≤ { v1 with encCap := 40#32 }.encCap.toNat ∧ { v1 with encCap := 39#32 }.encCap.toNat < 40 := by decide

theorem witness_EncTrailerWritesSixteenBytes :
    16 ≤ { v1 with encCap := 16#32 }.encCap.toNat ∧ { v1 with encCap := 15#32 }.encCap.toNat < 16 := by decide

/-- Truncated, exact and short requests, and a capacity of 7. -/
theorem witness_EncDataBlockCopiesTheSpan :
    (∀ c ∈ [(8#32, 0#32, 0), (12#32, 100#32, 4), (12#32, 4#32, 4), (64#32, 3#32, 3)],
      8 ≤ { State.reset with encCap := c.1, inDataLen := c.2.1 }.encCap.toNat ∧
      c.2.2 = min { State.reset with encCap := c.1, inDataLen := c.2.1 }.inDataLen.toNat
        ({ State.reset with encCap := c.1, inDataLen := c.2.1 }.encCap.toNat - 8) ∧
      { State.reset with encCap := c.1, inDataLen := c.2.1 }.params.Legal ∧
      { State.reset with encCap := c.1, inDataLen := c.2.1 }.WarlLegal) ∧
    { State.reset with encCap := 7#32 }.encCap.toNat < 8 := by decide

theorem witness_EncodedPacketsAreCompact :
    ∀ i ∈ encoders, (nextOf (exec i v1)).isSome = true ∧ (nextOf (exec i State.reset)).isSome = true := by decide

theorem witness_LeaderRoundTrip : 40 ≤ v1.encCap.toNat := by decide

theorem witness_TrailerAndDataBlockRoundTrip :
    ∀ c ∈ [(Instr.encTrailer, 2, 16), (.encDataBlock, 3, 8)],
      c ∈ [(Instr.encTrailer, 2, 16), (.encDataBlock, 3, 8)] ∧ c.2.2 ≤ v1.encCap.toNat := by decide

theorem witness_Bswap16ReversesTwoBytes :
    ∃ t, exec .bswap16 (withArg 0x1234#64 0#64) = .next t ∧ (withArg 0x3412#64 0#64).argLo = t.resultLo ∧
      (withArg 0x3412#64 0#64).argHi = t.resultHi := ⟨_, rfl, by decide, by decide⟩

/-- V33: the fields of the V1 and V20 packets, read through the window. -/
theorem witness_SwapOfWindowReadIsTheWireField :
    State.reset.params.Legal ∧
    ({ issuing (rd16 (pbAddr 2)) with pb := v1Decode.pb }.pb.Holds 2 (bytes16 7#16) ∧
      { issuing (rd16 (pbAddr 2)) with pb := v1Decode.pb }.Issues (.read (BitVec.ofNat 18 (0x10000 + 2)) .half) []) ∧
    ({ issuing (rd32 (pbAddr 20)) with pb := v1Decode.pb }.pb.Holds 20 (bytes32 0x01080001#32) ∧
      { issuing (rd32 (pbAddr 20)) with pb := v1Decode.pb }.Issues (.read (BitVec.ofNat 18 (0x10000 + 20)) .word) []) ∧
    { v20 with pending := [.bus (rd32 (pbAddr 8)), .bus (rd32 (pbAddr 12))] }.pb.Holds 8 (bytes64 0x0123456789ABCDEF#64) ∧
    { v20 with pending := [.bus (rd32 (pbAddr 8)), .bus (rd32 (pbAddr 12))] }.Issues
      (.read (BitVec.ofNat 18 (0x10000 + 8)) .word) [.bus (.read (BitVec.ofNat 18 (0x10000 + (8 + 4))) .word)] :=
  ⟨by decide, ⟨holdsOf rfl, rfl, rfl⟩, ⟨holdsOf rfl, rfl, rfl⟩, holdsOf rfl, rfl, rfl⟩

/-- One state for each clause: nothing written, and a packet whose last byte is missing in each mode. -/
theorem witness_UnwrittenBytesFault :
    (State.reset.pb.Unwritten 4 ∧ 8 ≤ { State.reset with pktLen := 8#32 }.pktLen.toNat ∧ State.reset.pb.Unwritten 0) ∧
    (v1Decode.pb.Unwritten 40 ∧ (withPacket [0]).pb.Unwritten 1) ∧
    ((0x7F#8).toNat < 128 ∧ (withPacket [0, 0, 0, 0, 0x7F, 0, 0]).pb.read 4 = some 0x7F ∧
      ∃ j < 3, (withPacket [0, 0, 0, 0, 0x7F, 0, 0]).pb.Unwritten (5 + j)) ∧
    (128 ≤ (0x80#8).toNat ∧ (withPacket ([0, 0, 0, 0, 0x80] ++ List.replicate 14 0)).pb.read 4 = some 0x80 ∧
      ∃ j < 4, (withPacket ([0, 0, 0, 0, 0x80] ++ List.replicate 14 0)).pb.Unwritten (16 + j)) ∧
    ({ State.reset with pb := [(2, 0), (4, 0x7F)] }.pb.read 4 = some 0x7F ∧
      ∃ j < 2, { State.reset with pb := [(2, 0), (4, 0x7F)] }.pb.Unwritten (2 + j)) ∧
    ((withPacket ([0, 0, 0, 0, 0x80] ++ List.replicate 10 0)).pb.read 4 = some 0x80 ∧
      ∃ j < 8, (withPacket ([0, 0, 0, 0, 0x80] ++ List.replicate 10 0)).pb.Unwritten (8 + j)) ∧
    (∃ j < 4, (withPacket (v20Packet.take 51)).pb.Unwritten (payloadAt 0x81#8 + 28 + j)) := by
  refine ⟨⟨rfl, by decide, rfl⟩, ⟨rfl, rfl⟩, ⟨by decide, rfl, 2, by decide, rfl⟩, ⟨by decide, rfl, 3, by decide, rfl⟩,
    ⟨rfl, 1, by decide, rfl⟩, ⟨rfl, 7, by decide, rfl⟩, 3, by decide, rfl⟩

/-- NOP, and each encoder just below its fixed size and just at it; the data block also with two bytes to copy. -/
theorem witness_CommandsChangeOnlyStatusResultAndEncodedBytes :
    (∃ t, exec .nop State.reset = .next t) ∧ Instr.nop ∉ encoders ∧
    (∀ c ∈ [(Instr.encLeader, 40, 40, 40#32), (.encLeader, 40, 40, 39#32), (.encTrailer, 16, 16, 16#32),
            (.encTrailer, 16, 16, 15#32), (.encDataBlock, 8, 8, 8#32), (.encDataBlock, 8, 8, 7#32),
            (.encDataBlock, 8, 10, 10#32)],
      (c.1, c.2.1, c.2.2.1) ∈
        [(Instr.encLeader, 40, 40), (.encTrailer, 16, 16),
          (.encDataBlock, 8, 8 + dataBlockLength { State.reset with encCap := c.2.2.2, inDataLen := 2#32 })] ∧
      (nextOf (exec c.1 { State.reset with encCap := c.2.2.2, inDataLen := 2#32 })).isSome = true) ∧
    ∀ j ∈ [1, 7, 11, 12, 15, 20, 31], j < 32 ∧ j ∉ [0, 8, 9, 10, 16, 17, 18, 19] :=
  ⟨⟨_, rfl⟩, by decide, by decide, by decide⟩

theorem witness_CommandsReadOnlyTheirOperands :
    Instr.nop ∉ [Instr.getTsNs, .scaleTs] ∧
    Instr.classify ∉ [Instr.isError, .mapBufferKind, .scaleTs, .bswap16, .bswap32, .bswap64] ∧
    Instr.getWidth ∉ encoders ∧ Instr.encTrailer ≠ .encLeader ∧ Instr.encLeader ≠ .encDataBlock ∧
    Instr.scaleTs ∈ [Instr.nop, .isError, .mapBufferKind, .scaleTs, .bswap16, .bswap32, .bswap64] := by decide

/-- A legal word, an illegal one, an encoder without capacity, a data size below 8, and a transaction that is no command. -/
theorem witness_LastErrRecordsTheLatestCommand :
    (∀ w ∈ [0x00000000#32, 0x00000120#32, 0x00000020#32, 0x00000009#32],
      (issuing (wr32 0x00010#18 w)).Issues (.write 0x00010#18 .word w) [] ∧
      (nextOf (step (issuing (wr32 0x00010#18 w)))).isSome = true) ∧
    ((issuing (wr16 0x00010#18 0x20#32)).Issues (.write 0x00010#18 .half 0x20#32) [] ∧
      (∀ w : Word, Txn.write 0x00010#18 .half 0x20#32 ≠ .write 0x00010#18 .word w) ∧
      ∃ t, step (issuing (wr16 0x00010#18 0x20#32)) = .next t) := by
  refine ⟨?_, ⟨rfl, rfl⟩, fun w h => ?_, _, rfl⟩
  · intro w hw
    fin_cases hw <;> exact ⟨⟨rfl, rfl⟩, rfl⟩
  · cases h

theorem witness_ErrorBitsAreSticky :
    { issuing (cmd .nop) with status := 0x00010F01#32 }.Issues (cmd .nop) [] ∧
    (∀ w : Word, cmd .nop ≠ .write 0x00014#18 .word w) ∧
    (∃ t, step { issuing (cmd .nop) with status := 0x00010F01#32 } = .next t) ∧
    (∀ j ∈ [0, 8, 9, 10, 11], (0x00010F01#32).getLsbD j = true) := by
  refine ⟨⟨rfl, rfl⟩, fun w h => ?_, ⟨_, rfl⟩, by decide⟩
  injection h with h1 _ _
  exact absurd h1 (by decide)

theorem witness_ParametersNeverChange : ∃ t, step (issuing (cmd .encLeader)) = .next t := ⟨_, rfl⟩

/-- The smallest legal buffers. -/
theorem witness_InvariantHoldsAtReset :
    Params.Legal { pbSize := 64, sbSize := 56, leaderPtype := 1#16, trailerPtype := 1#32 } := by decide

/-- A state with a packet, an error recorded and a command issued, and one under an asserted reset. -/
theorem witness_EveryStepKeepsTheInvariant :
    ({ v1Decode with status := 0x00020201#32, pending := [.bus (cmd .getWidth)] }.Inv ∧
      ∃ t, step { v1Decode with status := 0x00020201#32, pending := [.bus (cmd .getWidth)] } = .next t) ∧
    ({ issuing clr with resetAsserted := true }.Inv ∧
      ∃ t, step { issuing clr with resetAsserted := true } = .next t) :=
  ⟨⟨by decide, _, rfl⟩, ⟨by decide, _, rfl⟩⟩

end Sys2Proof.Tests
end

section
/-! SUPPORT. The statements on the registers (10_state.md): the reset values, the hardwired and reserved offsets, the
write to STATUS, PKT_LEN and LAST_ERR. -/

namespace Sys2Proof.Machine

/-! ## Writes that are ignored -/

/-- A 32-bit write of a register that stores nothing is answered OKAY and changes nothing. -/
theorem step_write_ignored {s : State} {rest : List HostEvent} {a : PortAddr} {v : Word}
    (h : s.Issues (.write a .word v) rest) (ha : a.toNat < 0x10000) (h4 : a.toNat % 4 = 0) (hc : a.toNat ≠ 0x010)
    (hr : regWrite { s with pending := rest } (regAt a.toNat) v = { s with pending := rest }) :
    step s = .next (answered s rest (.writeDone .okay)) := by
  rw [step_write_register h ha h4 hc, hr]
  rfl

/-- Settles O4: each of the four addresses decodes to its hardwired register, whose write arm keeps the state. -/
theorem hardwiredRegistersReadTheirConstants : Obligations.HardwiredRegistersReadTheirConstants := by
  intro s rest a v hav
  simp only [List.mem_cons, Prod.mk.injEq, List.not_mem_nil, or_false] at hav
  rcases hav with ⟨rfl, rfl⟩ | ⟨rfl, rfl⟩ | ⟨rfl, rfl⟩ | ⟨rfl, rfl⟩ <;>
    exact ⟨fun h => step_read_register h (by decide) (by decide),
      fun _ h => step_write_ignored h (by decide) (by decide) (by decide) rfl⟩

/-- Settles O8: such an offset names no register, and `.reserved` reads 0 and stores nothing. -/
theorem reservedOffsetsReadZeroIgnoreWrites : Obligations.ReservedOffsetsReadZeroIgnoreWrites := by
  intro s rest a ha h4 hres
  have hreg : regAt a.toNat = .reserved := regAt_reserved h4 hres
  refine ⟨fun h => ?_, fun v h => step_write_ignored h ha h4 (by omega) (by rw [hreg]; rfl)⟩
  rw [step_read_register h ha h4, hreg]
  rfl

/-! ## STATUS -/

/-- Settles O7: the write stores `statusW1c`, known bit by bit. -/
theorem statusWriteOneClears : Obligations.StatusWriteOneClears := by
  intro s rest w h
  refine ⟨statusW1c s.status w, ?_, fun j hj => getLsbD_statusW1c s.status w hj⟩
  rw [step_write_register h (by decide) (by decide) (by decide)]
  rfl

/-! ## PKT_LEN -/

/-- The clamp of R27 and R28 on numbers: a minimum with a 32-bit number fits in 32 bits. -/
theorem toNat_clampToPb (s : State) (v : Word) : (clampToPb s v).toNat = min v.toNat s.params.pbSize := by
  have hlt : min v.toNat s.params.pbSize < 2 ^ 32 := lt_of_le_of_lt (min_le_left _ _) v.isLt
  rw [clampToPb, BitVec.toNat_ofNat, Nat.mod_eq_of_lt hlt]

section
variable {f : State → State}

/-- A PB command's end commutes with an update that keeps clear of RESULT and STATUS. -/
theorem answerRead_map (hans : ∀ (t : State) (r : DWord), (f t).answer r = f (t.answer r)) (s : State)
    (v : Option DWord) : answerRead (f s) v = mapNext (answerRead s v) f := by
  cases v <;> simp [hans]

/-- A builder's ends commute with an update that keeps clear of ENC_CAP, PB, RESULT and STATUS. -/
theorem encodePacket_map {s : State} (hcap : (f s).encCap = s.encCap)
    (hfail : (f s).failWith .cap = f (s.failWith .cap))
    (hans : ∀ (m : Memory) (r : DWord), ((f s).setPb m).answer r = f ((s.setPb m).answer r))
    (fixed : Nat) (pb : Memory) (n : Nat) :
    encodePacket (f s) fixed pb n = mapNext (encodePacket s fixed pb n) f := by
  rcases Nat.lt_or_ge s.encCap.toNat fixed with h | h
  · rw [encodePacket_of_lt h, encodePacket_of_lt (hcap ▸ h), hfail, mapNext_next]
  · rw [encodePacket_of_le h, encodePacket_of_le (hcap ▸ h), hans, mapNext_next]

end

/-- Replace PKT_LEN. -/
def State.withPktLen (v : Word) (s : State) : State := { s with pktLen := v }

/-- Every command but GET_DATA_SIZE has the same outcome whatever PKT_LEN holds (10_state.md R27). -/
theorem exec_withPktLen {i : Instr} (hi : i ≠ .getDataSize) (s : State) (v : Word) :
    exec i (s.withPktLen v) = mapNext (exec i s) (State.withPktLen v) := by
  cases i
  case getDataSize => exact absurd rfl hi
  case nop | isError | mapBufferKind | scaleTs | bswap16 | bswap32 | bswap64 => rfl
  case encLeader | encTrailer | encDataBlock => exact encodePacket_map rfl rfl (fun _ _ => rfl) _ _ _
  all_goals exact answerRead_map (fun _ _ => rfl) s _

/-- A written compact header byte with PKT_LEN 40: GET_DATA_SIZE answers 32, and 0 with PKT_LEN 8. -/
def dataSizeExample : State := { State.reset with pktLen := 40#32, pb := [(4, 0x01#8)] }

/-- GET_DATA_SIZE reads PKT_LEN. -/
theorem execGetDataSize_withPktLen_ne : exec .getDataSize (dataSizeExample.withPktLen 8#32) ≠
    mapNext (exec .getDataSize dataSizeExample) (State.withPktLen 8#32) := by
  have h8 : exec .getDataSize (dataSizeExample.withPktLen 8#32) =
      .next ((dataSizeExample.withPktLen 8#32).answer 0#64) := rfl
  have h40 : exec .getDataSize dataSizeExample = .next (dataSizeExample.answer 32#64) := rfl
  rw [h8, h40, mapNext_next]
  intro h
  have hlo : (0#64).extractLsb' 0 32 = (32#64).extractLsb' 0 32 :=
    congrArg State.resultLo (Host.Outcome.next.inj h)
  exact absurd hlo (by decide)

/-- Settles O9, from the clamp on numbers and the independence of every other command. -/
theorem pktLenIsClampedAndReadByDataSizeAlone : Obligations.PktLenIsClampedAndReadByDataSizeAlone := by
  refine ⟨fun s rest v _ h => ⟨clampToPb s v, toNat_clampToPb s v, ?_⟩, fun s rest h => ?_, fun _ => rfl,
    fun i s v hi => exec_withPktLen hi s v, dataSizeExample, 8#32, execGetDataSize_withPktLen_ne⟩
  · rw [step_write_register h (by decide) (by decide) (by decide)]
    rfl
  · exact step_read_register h (by decide) (by decide)

/-! ## LAST_ERR -/

/-- LAST_ERR as a number. -/
theorem toNat_lastErrOf (st : Word) : (lastErrOf st).toNat = st.toNat / 2 ^ 16 % 16 := by
  simp [lastErrOf, Nat.shiftRight_eq_div_pow]

/-- LAST_ERR bit by bit. -/
theorem getLsbD_lastErrOf (st : Word) {j : Nat} (hj : j < 4) : (lastErrOf st).getLsbD j = st.getLsbD (16 + j) := by
  simp [lastErrOf, hj]

theorem lastErrOf_statusFinish (st : Word) : lastErrOf (statusFinish st) = 0#4 := by
  apply BitVec.eq_of_getLsbD_eq
  intro j hj
  rw [getLsbD_lastErrOf _ hj, getLsbD_statusFinish _ (by omega), if_neg (by omega), if_pos (by omega)]
  simp

theorem lastErrOf_statusRaise (st : Word) (e : CmdError) : lastErrOf (statusRaise st e) = e.code := by
  apply BitVec.eq_of_getLsbD_eq
  intro j hj
  rw [getLsbD_lastErrOf _ hj, getLsbD_statusRaise _ _ (by omega), if_neg (by omega), if_pos (c := _ ∧ _) (by omega)]
  cases e <;> interval_cases j <;> rfl

theorem lastErrOf_statusBus (st : Word) : lastErrOf (statusBus st) = lastErrOf st := by
  apply BitVec.eq_of_getLsbD_eq
  intro j hj
  rw [getLsbD_lastErrOf _ hj, getLsbD_lastErrOf _ hj, getLsbD_statusBus _ (by omega), if_neg (by omega)]

theorem lastErrOf_statusW1c (st w : Word) : lastErrOf (statusW1c st w) = lastErrOf st := by
  apply BitVec.eq_of_getLsbD_eq
  intro j hj
  rw [getLsbD_lastErrOf _ hj, getLsbD_lastErrOf _ hj, getLsbD_statusW1c _ _ (by omega), if_neg (by omega)]

/-- The packet is too short for GET_DATA_SIZE: below 8 bytes, or below the payload's place (41_header_fields.md R110). -/
def State.SizeShort (s : State) : Prop :=
  s.pktLen.toNat < 8 ∨ ∃ b4 : Byte, s.pb.read 4 = some b4 ∧ s.pktLen.toNat < payloadAt b4

/-- ENC_CAP is below the fixed size of the builder (43_encoder.md R126). -/
def State.CapShort (s : State) (i : Instr) : Prop :=
  (i = .encLeader ∧ s.encCap.toNat < 40) ∨ (i = .encTrailer ∧ s.encCap.toNat < 16) ∨
    (i = .encDataBlock ∧ s.encCap.toNat < 8)

theorem State.capShort_iff {s : State} {i : Instr} :
    s.CapShort i ↔ i ∈ encoders ∧ s.encCap.toNat < (packetOf i s).1 := by
  cases i <;> simp [State.CapShort, packetOf]

/-- GET_DATA_SIZE is no builder. -/
theorem State.not_capShort_getDataSize (s : State) : ¬ s.CapShort .getDataSize := by simp [State.CapShort]

/-- GET_DATA_SIZE on a packet too short raises SIZE. -/
theorem execGetDataSize_of_short {s : State} (h : s.SizeShort) : execGetDataSize s = .next (s.failWith .size) := by
  unfold execGetDataSize
  split
  · rfl
  · rename_i h8
    obtain ⟨b4, hb, hlt⟩ := h.resolve_left h8
    simp [pbMode_of_read hb, dataOffset_modeOf, hlt]

/-- GET_DATA_SIZE on a packet long enough can only answer. -/
theorem execGetDataSize_of_not_short {s t : State} (hs : ¬ s.SizeShort) (h : execGetDataSize s = .next t) :
    ∃ v, t = s.answer v := by
  obtain ⟨h8, hb4⟩ := not_or.1 hs
  cases hb : s.pb.read 4 with
  | none =>
    rw [(execGetDataSize_eq_fault s).2 ⟨Nat.not_lt.1 h8, hb⟩] at h
    cases h
  | some b4 =>
    have hge : ¬ s.pktLen.toNat < payloadAt b4 := fun hlt => hb4 ⟨b4, hb, hlt⟩
    simp only [execGetDataSize, h8, pbMode_of_read hb, dataOffset_modeOf, hge, if_false] at h
    exact ⟨_, (Host.Outcome.next.inj h).symm⟩

/-- The three ways a command leaves STATUS, each with its cause: SIZE, CAP, or `finish`. -/
theorem exec_status {i : Instr} {s t : State} (h : exec i s = .next t) :
    (i = .getDataSize ∧ s.SizeShort ∧ t.status = statusRaise s.status .size) ∨
    (s.CapShort i ∧ t.status = statusRaise s.status .cap) ∨
    (¬ (i = .getDataSize ∧ s.SizeShort) ∧ ¬ s.CapShort i ∧ t.status = statusFinish s.status) := by
  by_cases hd : i = .getDataSize
  · subst hd
    by_cases hs : s.SizeShort
    · rw [exec, execGetDataSize_of_short hs] at h
      cases h
      exact .inl ⟨rfl, hs, rfl⟩
    · obtain ⟨v, rfl⟩ := execGetDataSize_of_not_short hs h
      exact .inr (.inr ⟨fun hs' => hs hs'.2, s.not_capShort_getDataSize, rfl⟩)
  · have hn : ¬ (i = .getDataSize ∧ s.SizeShort) := fun h' => hd h'.1
    rw [State.capShort_iff]
    rcases exec_eq_next h with ⟨rfl, rfl⟩ | ⟨he, v, rfl⟩ | ⟨hd', -⟩ | ⟨he, ⟨hlt, rfl⟩ | ⟨hle, rfl⟩⟩
    · exact .inr (.inr ⟨hn, by simp, rfl⟩)
    · exact .inr (.inr ⟨hn, fun h' => he h'.1, rfl⟩)
    · exact absurd hd' hd
    · exact .inr (.inl ⟨⟨he, hlt⟩, rfl⟩)
    · exact .inr (.inr ⟨hn, fun h' => Nat.not_lt.2 hle h'.2, rfl⟩)

/-- LAST_ERR after a processed CMD write (10_state.md R26). -/
theorem issueCommand_lastErr {s t : State} {w : Word} (h : issueCommand s w = .next t) :
    ((∃ r, decode w = .error r) ∧ lastErrOf t.status = 1#4) ∨
    (∃ i, decode w = .ok i ∧
      ((i = .getDataSize ∧ s.SizeShort ∧ lastErrOf t.status = 2#4) ∨
       (s.CapShort i ∧ lastErrOf t.status = 3#4) ∨
       (¬ (i = .getDataSize ∧ s.SizeShort) ∧ ¬ s.CapShort i ∧ lastErrOf t.status = 0#4))) := by
  rcases issueCommand_eq_next h with ⟨r, hr, rfl⟩ | ⟨i, hi, hx⟩
  · exact .inl ⟨⟨r, hr⟩, lastErrOf_statusRaise s.status .illegal⟩
  · refine .inr ⟨i, hi, ?_⟩
    rcases exec_status hx with ⟨hd, hs, ht⟩ | ⟨hc, ht⟩ | ⟨hd, hc, ht⟩
    · exact .inl ⟨hd, hs, ht ▸ lastErrOf_statusRaise s.status .size⟩
    · exact .inr (.inl ⟨hc, ht ▸ lastErrOf_statusRaise s.status .cap⟩)
    · exact .inr (.inr ⟨hd, hc, ht ▸ lastErrOf_statusFinish s.status⟩)

/-- A transaction that is no CMD write leaves LAST_ERR. -/
theorem transact_lastErr {s t : State} {x : Txn} (hx : ∀ w : Word, x ≠ .write 0x00010#18 .word w)
    (h : transact s x = .next t) : lastErrOf t.status = lastErrOf s.status := by
  rcases transact_eq_next h with ⟨-, r, -, rfl⟩ | ⟨-, r, -, hacc⟩
  · exact lastErrOf_statusBus s.status
  · rcases hacc with ⟨a, w, -, d, -, rfl⟩ | ⟨a, v, -, -, -, -, rfl⟩ | ⟨v, hcmd, -⟩ | ⟨a, w, v, k, -, -, -, -, rfl⟩ |
      ⟨a, w, v, k, -, -, -, -, rfl⟩
    · rfl
    · rw [State.respond_status, regWrite_status]
      split
      · exact lastErrOf_statusW1c s.status v
      · rfl
    · exact absurd hcmd (hx v)
    · rfl
    · rfl

/-- Settles O47: each code stands beside its cause, and the causes exclude each other. -/
theorem lastErrRecordsTheLatestCommand : Obligations.LastErrRecordsTheLatestCommand := by
  refine ⟨fun s t rest w h hs => ?_, fun s t rest x h hx hs => ?_⟩
  · rw [step_write_cmd h] at hs
    obtain ⟨u, hu, rfl⟩ := (mapNext_eq_next _ _ _).1 hs
    simp only [← toNat_lastErrOf, State.respond_status]
    rcases issueCommand_lastErr hu with ⟨⟨r, hr⟩, hl⟩ | ⟨i, hi, hl⟩
    · simp [hr, hl]
    · simp only [hi, Except.ok.injEq, reduceCtorEq, exists_false]
      change _ ∧ _ ∧ (_ ↔ i = .getDataSize ∧ State.SizeShort { s with pending := rest }) ∧
        (_ ↔ State.CapShort { s with pending := rest } i)
      rcases hl with ⟨rfl, hsize, hl⟩ | ⟨hcap, hl⟩ | ⟨hsize, hcap, hl⟩
      · simp [hl, hsize, State.not_capShort_getDataSize]
      · have hd : i ≠ .getDataSize := fun hd => State.not_capShort_getDataSize _ (hd ▸ hcap)
        simp [hl, hcap, hd]
      · simp [hl, hsize, hcap]
  · rw [step_of_issues h] at hs
    rw [← toNat_lastErrOf, ← toNat_lastErrOf, transact_lastErr hx hs]

/-! ## Reset -/

/-- Settles O1, register by register of R42's list. -/
theorem resetLeavesTheStatedValues : Obligations.ResetLeavesTheStatedValues := by
  intro p
  refine ⟨fun off v h => ?_, fun k => ⟨Memory.read_nil k, Memory.read_nil k⟩, fun hp => hp ▸ rfl⟩
  fin_cases h <;> rfl

end Sys2Proof.Machine
end

section
/-! SUPPORT. The statements on memory access (20_memory.md): refused transactions. -/

namespace Sys2Proof.Machine

/-! ## Refused transactions -/

/-- The response to a transaction the port refuses (20_memory.md R52). -/
def Txn.refusal : Txn → Response
  | .read _ _ => .readDone .error 0#32
  | .write _ _ _ => .writeDone .error

/-- The step on a refused transaction: the ERROR response, with E_BUS the only other change. -/
theorem step_refused {s : State} {t : Txn} {rest : List HostEvent} (h : s.Issues t rest)
    (hr : PortRefuses s.params t.addr t.width) :
    step s = .next { answered s rest t.refusal with status := s.status ||| 0x00000800#32 } := by
  rw [step_of_issues h, transact_refused (s := { s with pending := rest }) hr]
  cases t <;> rfl

/-- Settles O10, for a read and for a write of the refused access. -/
theorem refusedTransactionsOnlySetBusError : Obligations.RefusedTransactionsOnlySetBusError :=
  fun _ _ _ _ hr => ⟨fun h => step_refused h hr, fun _ h => step_refused h hr⟩

end Sys2Proof.Machine
end

section
/-! SUPPORT. The statements on command issue and the classifier (40_classify.md), with GET_CONTENT_TYPE and
GET_DATA_OFFSET (41_header_fields.md). -/

namespace Sys2Proof.Machine

/-! ## Illegal words -/

/-- RESERVED is the part of the word above its low byte (30_encoding.md R85). -/
theorem toNat_reservedField (w : Word) : (reservedField w).toNat = w.toNat / 256 := by
  rw [reservedField, BitVec.extractLsb'_toNat, Nat.shiftRight_eq_div_pow]
  omega

/-- OPCODE is the low byte of the word (30_encoding.md R85). -/
theorem toNat_opcodeField (w : Word) : (opcodeField w).toNat = w.toNat % 256 := by
  rw [opcodeField, BitVec.extractLsb'_toNat, Nat.shiftRight_zero]

/-- The decoder has no row for an opcode in a gap of the map (30_encoding.md R89). -/
theorem decodeOpcode_of_gap {op : BitVec 8}
    (h : (0x0A ≤ op.toNat ∧ op.toNat ≤ 0x0F) ∨ (0x1B ≤ op.toNat ∧ op.toNat ≤ 0x1F) ∨
      (0x23 ≤ op.toNat ∧ op.toNat ≤ 0x2F) ∨ 0x33 ≤ op.toNat) :
    decodeOpcode op = .error .unlistedOpcode := by
  unfold decodeOpcode
  split
  case h_28 => rfl
  all_goals omega

/-- The decoder refuses every word R89 lists: for its reserved bits, or for an opcode in a gap. -/
theorem decode_of_wordIllegal {w : Word} (h : WordIllegal w) : ∃ r, decode w = .error r := by
  by_cases hr : reservedField w = 0#24
  · have hlow : w.toNat / 256 = 0 := by rw [← toNat_reservedField, hr]; rfl
    refine ⟨.unlistedOpcode, ?_⟩
    rw [decode, if_pos hr]
    apply decodeOpcode_of_gap
    rw [toNat_opcodeField]
    unfold WordIllegal at h
    omega
  · exact ⟨.reservedNonzero, if_neg hr⟩

/-- Issuing a word R89 lists raises ILLEGAL (40_classify.md R105). -/
theorem issueCommand_of_wordIllegal {w : Word} (h : WordIllegal w) (s : State) :
    issueCommand s w = .next s.illegalCommand := by
  obtain ⟨r, hr⟩ := decode_of_wordIllegal h
  rw [issueCommand, hr]

/-- The port refuses a narrow or misaligned access to the four bytes of CMD (20_memory.md R50). -/
theorem portRefuses_cmd {p : Params} {a : PortAddr} {w : Width} (ha : a.toNat / 4 = 0x10 / 4)
    (hw : w ≠ .word ∨ a.toNat % 4 ≠ 0) : PortRefuses p a w := .inl ⟨by omega, hw⟩

/-- Settles O19: an illegal word reaches `illegalCommand`, and the narrow or misaligned write never reaches the decoder. -/
theorem illegalWordsRaiseIllegal : Obligations.IllegalWordsRaiseIllegal := by
  refine ⟨fun s rest w hw h => ?_, fun s rest a w v ha hw h => step_refused h (portRefuses_cmd ha hw)⟩
  rw [step_write_cmd h, issueCommand_of_wordIllegal hw, mapNext_next, State.illegalCommand, State.raiseErr,
    statusRaise_eq]
  rfl

/-! ## Commands that answer a field of PB -/

/-- A PB command whose RESULT is a field, zero-extended, finishes with the field's number. -/
theorem answerRead_field {n : Nat} {o : Option (BitVec n)} {x : BitVec n} (h : o = some x) (s : State) :
    answerRead s (o.map (fun y => y.setWidth 64)) = .next (finishedWith s (BitVec.ofNat 64 x.toNat)) := by
  rw [h, Option.map_some, answerRead_some, State.answer_eq, BitVec.ofNat_toNat]

/-- STATUSW() on written bytes (30_encoding.md R82). -/
theorem pbStatus_of_read {pb : Memory} {b0 b1 : Byte} (h0 : pb.read 0 = some b0) (h1 : pb.read 1 = some b1) :
    pbStatus pb = some (b0 ++ b1) := Memory.read16_of_bytes h0 h1

/-- PACK_CLASS as fields side by side: bit 31 and bits 23 to 18 are 0 (30_encoding.md R83). -/
theorem packClass_eq_join (st : Half) (m : BitVec 1) (ct : BitVec 7) :
    packClass st m ct = (0#1 ++ ct ++ 0#6 ++ st.extractLsb' 15 1 ++ m ++ st : Word) := by
  apply BitVec.eq_of_getLsbD_eq
  intro i hi
  simp only [packClass, BitVec.getLsbD_append, BitVec.getLsbD_or, BitVec.getLsbD_shiftLeft, BitVec.getLsbD_setWidth]
  interval_cases i <;> simp

/-- Bit 15 of a status as a number (40_classify.md R104). -/
theorem toNat_isErrorStatus (st : Half) : (isErrorStatus st).toNat = st.toNat / 2 ^ 15 := by
  rw [isErrorStatus, BitVec.extractLsb'_toNat, Nat.shiftRight_eq_div_pow]
  omega

/-- PACK_CLASS on numbers: its fields do not overlap, so joining them adds them. -/
theorem toNat_packClass (st : Half) (m : BitVec 1) (ct : BitVec 7) : (packClass st m ct).toNat =
    ct.toNat * 2 ^ 24 + st.toNat / 2 ^ 15 * 2 ^ 17 + m.toNat * 2 ^ 16 + st.toNat := by
  rw [packClass_eq_join, ← isErrorStatus]
  simp only [toNat_join, toNat_isErrorStatus, BitVec.toNat_ofNat]
  omega

/-- Settles O21: the packed word as a sum, over the status as the number of its two bytes. -/
theorem classifyPacksStatusModeAndType : Obligations.ClassifyPacksStatusModeAndType := by
  refine ⟨rfl, fun s b0 b1 b4 h0 h1 h4 => ?_⟩
  have herr : (b0.toNat * 256 + b1.toNat) / 2 ^ 15 = b0.toNat / 128 := by omega
  have hval := toNat_packClass (b0 ++ b1) (modeOf b4) (contentTypeOf b4)
  rw [toNat_join8, herr, modeOf_toNat, contentTypeOf_toNat] at hval
  rw [exec, execClassify, pbStatus_of_read h0 h1, pbMode_of_read h4, pbContentType_of_read h4, ← hval,
    BitVec.ofNat_toNat]
  exact congrArg _ (State.answer_eq s _)

/-- Settles O22: each command is one field of the depacker, read on written bytes. -/
theorem headerModePacketTypeContentTypeAndOffset : Obligations.HeaderModePacketTypeContentTypeAndOffset := by
  refine ⟨⟨rfl, fun s b4 h4 => ?_⟩, ⟨rfl, fun s b0 b1 h0 h1 => ?_⟩, ⟨rfl, fun s b4 h4 => ?_⟩,
    ⟨rfl, fun s b4 h4 => ?_⟩⟩
  · rw [exec, execGetHeaderMode, answerRead_field (pbMode_of_read h4), modeOf_toNat]
  · rw [exec, execGetPacketType, answerRead_field (pbStatus_of_read h0 h1), toNat_join8]
  · rw [exec, execGetContentType, answerRead_field (pbContentType_of_read h4), contentTypeOf_toNat]
  · rw [exec, execGetDataOffset, pbMode_of_read h4, Option.map_some, answerRead_some, dataOffset_modeOf,
      State.answer_eq, payloadAt]

/-! ## NOP -/

/-- A packet of zero bytes, long enough for every field of a compact leader, with RESULT = 1. -/
def zeroPacket : State := { State.reset with resultLo := 1#32, pb := (List.range 40).map (fun k => (k, 0x00#8)) }

/-- On the zero packet a command other than NOP answers 0, the compact data offset, or the unknown buffer kind. -/
theorem exec_zeroPacket {i : Instr} (hi : i ≠ .nop) :
    ∃ t : State, exec i zeroPacket = .next t ∧ t.result ∈ [0#64, 8#64, 0xFFFFFFFF#64] := by
  cases i
  case nop => exact absurd rfl hi
  all_goals exact ⟨_, rfl, by decide⟩

/-- Settles O20: on the zero packet no other command answers the 1 that stands in RESULT. -/
theorem nopOnlyFinishes : Obligations.NopOnlyFinishes := by
  refine ⟨rfl, fun s => ?_, zeroPacket, fun i hi => ?_⟩
  · rw [exec, execNop, State.finish, statusFinish_eq]
  · obtain ⟨t, ht, hmem⟩ := exec_zeroPacket hi
    have hone : zeroPacket.result ∉ [0#64, 8#64, 0xFFFFFFFF#64] := by decide
    exact ⟨t, ht, fun heq => hone (heq ▸ hmem)⟩

/-! ## IS_ERROR -/

/-- ARG[15:0] as a number. -/
theorem toNat_arg16 (s : State) : s.arg16.toNat = s.argLo.toNat % 0x10000 := by
  rw [State.arg16, BitVec.extractLsb'_toNat, Nat.shiftRight_zero]

/-- is_error, zero-extended: 1 exactly from 0x8000 on. -/
theorem isErrorStatus_setWidth (st : Half) :
    (isErrorStatus st).setWidth 64 = if 0x8000 ≤ st.toNat then 1#64 else 0#64 := by
  have hlt := st.isLt
  rw [← BitVec.ofNat_toNat, toNat_isErrorStatus]
  split
  · rw [show st.toNat / 2 ^ 15 = 1 by omega]
  · rw [show st.toNat / 2 ^ 15 = 0 by omega]

/-- Settles O23: the low half of ARG is at least 0x8000 exactly when its bit 15 is set. -/
theorem isErrorIsBitFifteen : Obligations.IsErrorIsBitFifteen := by
  refine ⟨rfl, fun s => ?_⟩
  rw [exec, execIsError, State.answer_eq, isErrorStatus_setWidth, toNat_arg16]

end Sys2Proof.Machine
end

section
/-! SUPPORT. The statements on the header field accessors (41_header_fields.md): GET_PACKET_ID, GET_FRAME_ID and
GET_DATA_SIZE. -/

namespace Sys2Proof.Machine

/-! ## Packet id and frame id -/

/-- PINFO[23:0] is the number its three low bytes spell; the mode and content-type byte is cut off. -/
theorem toNat_pinfo_low24 (b4 b5 b6 b7 : Byte) :
    (((b4 ++ b5 : Half) ++ (b6 ++ b7 : Half) : Word).extractLsb' 0 24).toNat =
      b5.toNat * 65536 + b6.toNat * 256 + b7.toNat := by
  rw [BitVec.extractLsb'_toNat, toNat_join16, toNat_join8, toNat_join8]
  omega

/-- PID() on a compact packet: the three bytes after byte 4 (30_encoding.md R82). -/
theorem pbPacketId_of_compact_bytes {pb : Memory} {b4 b5 b6 b7 : Byte} (hm : b4.toNat < 128)
    (h : pb.Holds 4 [b4, b5, b6, b7]) :
    pbPacketId pb = some (BitVec.ofNat 32 (b5.toNat * 65536 + b6.toNat * 256 + b7.toNat)) := by
  have h4 : pb.read 4 = some b4 := h.read (j := 0) rfl
  have hinfo : pb.read32 4 = some ((b4 ++ b5 : Half) ++ (b6 ++ b7 : Half) : Word) :=
    Memory.read32_of_bytes h4 (h.read (j := 1) rfl) (h.read (j := 2) rfl) (h.read (j := 3) rfl)
  rw [pbPacketId_compact h4 hm, hinfo, Option.map_some, ← BitVec.ofNat_toNat, toNat_pinfo_low24]

/-- Settles O24: PID() is the low 24 bits of PINFO, or the word at 16. -/
theorem packetIdByHeaderMode : Obligations.PacketIdByHeaderMode := by
  refine ⟨rfl, fun s b4 b5 b6 b7 hm h => ?_, fun s b4 v hm h4 h => ?_⟩
  · have hlt : b5.toNat * 65536 + b6.toNat * 256 + b7.toNat < 2 ^ 32 := by omega
    rw [exec, execGetPacketId, answerRead_field (pbPacketId_of_compact_bytes hm h), BitVec.toNat_ofNat,
      Nat.mod_eq_of_lt hlt]
  · have hpid : pbPacketId s.pb = some v := (pbPacketId_extended h4 hm).trans (Memory.read32_of_holds h)
    rw [exec, execGetPacketId, answerRead_field hpid]

/-- Settles O25: FID() is the field at 2, zero-extended, or the one 64-bit field at 8. -/
theorem frameIdByHeaderMode : Obligations.FrameIdByHeaderMode := by
  refine ⟨rfl, fun s b4 v hm h4 h => ?_, fun s b4 v hm h4 h => ?_⟩
  · rw [exec, execGetFrameId, pbFrameId_compact h4 hm, answerRead_field (Memory.read16_of_holds h)]
  · rw [exec, execGetFrameId, pbFrameId_extended h4 hm, Memory.read64_of_holds h, answerRead_some, State.answer_eq]

/-! ## Data size -/

/-- RESULT is 0 after a command that fails. -/
@[simp] theorem State.result_failWith (s : State) (e : CmdError) : (s.failWith e).result = 0#64 :=
  State.result_setResult s 0#64

/-- The payload never starts before byte 8 (30_encoding.md R75). -/
theorem eight_le_dataOffset (m : BitVec 1) : 8 ≤ dataOffset m := by
  unfold dataOffset headerSize
  split <;> omega

/-- GET_DATA_SIZE on a packet that reaches its payload answers the bytes from there on. -/
theorem execGetDataSize_of_payload {s : State} {b4 : Byte} (h8 : 8 ≤ s.pktLen.toNat) (h4 : s.pb.read 4 = some b4)
    (hle : payloadAt b4 ≤ s.pktLen.toNat) :
    execGetDataSize s = .next (s.answer (BitVec.ofNat 64 (s.pktLen.toNat - payloadAt b4))) := by
  simp [execGetDataSize, pbMode_of_read h4, dataOffset_modeOf, Nat.not_lt.2 h8, Nat.not_lt.2 hle]

/-- The data size leaves out at least the 8 bytes before the payload, so it never wraps (41_header_fields.md R110). -/
theorem execGetDataSize_result_le {s t : State} (h : execGetDataSize s = .next t) :
    t.result.toNat ≤ s.pktLen.toNat - 8 := by
  rcases execGetDataSize_eq_next s t h with rfl | ⟨m, -, -, -, rfl⟩
  · simp
  · calc (s.answer (BitVec.ofNat 64 (s.pktLen.toNat - dataOffset m))).result.toNat
        = (s.pktLen.toNat - dataOffset m) % 2 ^ 64 := by rw [State.result_answer, BitVec.toNat_ofNat]
      _ ≤ s.pktLen.toNat - dataOffset m := Nat.mod_le _ _
      _ ≤ s.pktLen.toNat - 8 := Nat.sub_le_sub_left (eight_le_dataOffset m) _

/-- Settles O26: the two underflows are `State.SizeShort`, and PKT_LEN is at most PB_SIZE. -/
theorem dataSizeOrSizeError : Obligations.DataSizeOrSizeError := by
  refine ⟨rfl, fun s h8 => ?_, fun s b4 h8 h4 => ?_, fun s _ ⟨hpkt, _⟩ t h => ?_⟩
  · rw [exec, execGetDataSize_of_short (.inl h8), State.failWith_size]
  · rw [exec]
    split
    · next hlt => rw [execGetDataSize_of_short (.inr ⟨b4, h4, hlt⟩), State.failWith_size]
    · next hge => rw [execGetDataSize_of_payload h8 h4 (Nat.not_lt.1 hge), State.answer_eq]
  · exact (execGetDataSize_result_le h).trans (Nat.sub_le_sub_right hpkt 8)

end Sys2Proof.Machine
end

section
/-! SUPPORT. The statements on the leader accessors, the timestamp scaler and the buffer-kind map
(42_leader_timestamp.md). -/

namespace Sys2Proof.Machine

/-! ## Fields of the leader -/

section
variable {pb : Memory} {b4 : Byte}

/-- LFIELD(o, 2) on written bytes (30_encoding.md R82). -/
theorem pbLeader16_of_holds {o : Nat} {v : Half} (h4 : pb.read 4 = some b4) (h : pb.Holds (payloadAt b4 + o) (bytes16 v)) :
    pbLeader16 pb o = some v := (pbLeader16_of_read h4 o).trans (Memory.read16_of_holds h)

/-- LFIELD(o, 4) on written bytes (30_encoding.md R82). -/
theorem pbLeader32_of_holds {o : Nat} {v : Word} (h4 : pb.read 4 = some b4) (h : pb.Holds (payloadAt b4 + o) (bytes32 v)) :
    pbLeader32 pb o = some v := (pbLeader32_of_read h4 o).trans (Memory.read32_of_holds h)

/-- The tick count on written bytes: the high word stands first (42_leader_timestamp.md R119). -/
theorem pbTicks_of_holds {hi lo : Word} (h4 : pb.read 4 = some b4)
    (h : pb.Holds (payloadAt b4 + 4) (bytes32 hi ++ bytes32 lo)) : pbTicks pb = some (hi ++ lo) := by
  obtain ⟨hhi, hlo⟩ := (Memory.holds_append _ _ _ _).1 h
  rw [pbTicks, pbLeader32_of_holds h4 hhi, pbLeader32_of_holds h4 hlo]

end

/-- The shared shape of the five accessors: RESULT is the field, zero-extended (42_leader_timestamp.md R114-R118). -/
theorem answerLeader32_of_holds {s : State} {b4 : Byte} {o : Nat} {v : Word} (h4 : s.pb.read 4 = some b4)
    (h : s.pb.Holds (payloadAt b4 + o) (bytes32 v)) :
    answerLeader32 s o = .next (finishedWith s (BitVec.ofNat 64 v.toNat)) := answerRead_field (pbLeader32_of_holds h4 h) s

/-- Settles O28: each of the five commands is `answerLeader32` at its own offset. -/
theorem leaderWordFields : Obligations.LeaderWordFields := by
  intro i w o hi
  simp only [List.mem_cons, Prod.mk.injEq, List.not_mem_nil, or_false] at hi
  rcases hi with ⟨rfl, rfl, rfl⟩ | ⟨rfl, rfl, rfl⟩ | ⟨rfl, rfl, rfl⟩ | ⟨rfl, rfl, rfl⟩ | ⟨rfl, rfl, rfl⟩ <;>
    exact ⟨rfl, fun s b4 v h4 h => answerLeader32_of_holds h4 h⟩

/-! ## Payload type and buffer kind -/

/-- Settles O29: both commands read LFIELD(2, 2); the first answers it raw, the second its KIND. -/
theorem payloadTypeAndBufferKind : Obligations.PayloadTypeAndBufferKind := by
  refine ⟨rfl, rfl, fun s b4 v h4 h => ?_⟩
  have hcode : pbLeader16 s.pb 2 = some v := pbLeader16_of_holds h4 h
  constructor
  · rw [exec, execGetPayloadType, answerRead_field hcode]
  · rw [exec, execGetBufferKind, hcode, Option.map_some, answerRead_some, bufferKind_eq, State.answer_eq]

/-- Settles O33: the operand is ARG modulo 2^16, and KIND is defined on every 16-bit value. -/
theorem mapBufferKindIsTotal : Obligations.MapBufferKindIsTotal := by
  refine ⟨rfl, fun s => ?_⟩
  rw [exec, execMapBufferKind, bufferKind_eq, toNat_arg16, State.answer_eq]

/-! ## The timestamp scaler -/

/-- The scaler on two register pairs computes R120's formula on their numbers (42_leader_timestamp.md R120). -/
theorem tsToNs_join (tHi tLo fHi fLo : Word) : tsToNs (tHi ++ tLo) (fHi ++ fLo) =
    BitVec.ofNat 64 (tsNsSpec (tHi.toNat * 2 ^ 32 + tLo.toNat) (fHi.toNat * 2 ^ 32 + fLo.toNat)) := by
  rw [tsToNs_eq, toNat_join, toNat_join]

/-- Settles O31: ARG and TICK_FREQ are the scaler's two register pairs. -/
theorem scaleTsFollowsTheFormula : Obligations.ScaleTsFollowsTheFormula := by
  refine ⟨rfl, fun s => ?_⟩
  rw [exec, execScaleTs, State.arg, State.tickFreq, tsToNs_join, State.answer_eq]

/-- GET_TS_NS stops where a tick byte is unwritten, whatever TICK_FREQ holds (42_leader_timestamp.md R121). -/
theorem exec_getTsNs_of_unwritten {s : State} {b4 : Byte} (h4 : s.pb.read 4 = some b4)
    (h : ∃ j < 8, s.pb.Unwritten (payloadAt b4 + 4 + j)) : exec .getTsNs s = .fault .unwrittenRead :=
  (exec_eq_fault .getTsNs s).2 ((leaderBytes_unwritten h4 4 8).2 h)

/-- Settles O30: the tick count is the joined pair of words, and GET_TS_NS scales it by TICK_FREQ. -/
theorem leaderTicksAndNanoseconds : Obligations.LeaderTicksAndNanoseconds := by
  refine ⟨rfl, rfl, fun s b4 h4 _ _ h => exec_getTsNs_of_unwritten h4 h, fun s b4 hi lo h4 h => ?_⟩
  have hticks : pbTicks s.pb = some (hi ++ lo) := pbTicks_of_holds h4 h
  constructor
  · rw [exec, execGetTsTicks, hticks, answerRead_some, State.answer_eq, ← toNat_join, BitVec.ofNat_toNat,
      BitVec.setWidth_eq]
  · rw [exec, execGetTsNs, hticks, Option.map_some, answerRead_some, State.tickFreq, tsToNs_join, State.answer_eq]

end Sys2Proof.Machine
end

section
/-! SUPPORT. The statements on the packet encoder (43_encoder.md). -/

namespace Sys2Proof.Machine

/-! ## The ends of a builder -/

/-- A builder with the capacity for its fixed part finishes, and changes only PB besides (43_encoder.md R126). -/
theorem encodePacket_finishes {s : State} {fixed : Nat} (h : fixed ≤ s.encCap.toNat) (pb : Memory) (n : Nat) :
    encodePacket s fixed pb n = .next { finishedWith s (BitVec.ofNat 64 n) with pb := pb } := by
  rw [encodePacket_of_le h, State.answer_eq]
  rfl

/-- A builder without the capacity for its fixed part raises CAP (43_encoder.md R126). -/
theorem encodePacket_raises {s : State} {fixed : Nat} (h : s.encCap.toNat < fixed) (pb : Memory) (n : Nat) :
    encodePacket s fixed pb n = .next (raisedWithZero s 10 3) := by
  rw [encodePacket_of_lt h, State.failWith_cap]

/-! ## Leader -/

/-- The leader's bytes, field behind field (43_encoder.md R127). -/
theorem leaderPacket_holds (s : State) : (leaderPacket s).Holds 0
    (headerBytes s 0x01#8 ++ [0x00#8, 0x00#8] ++ bytes16 s.params.leaderPtype ++ bytes32 s.inTsHi ++
      bytes32 s.inTsLo ++ bytes32 s.inPixelFormat ++ bytes32 s.inWidth ++ bytes32 s.inHeight ++
      bytes32 s.inXOffset ++ bytes32 s.inYOffset) := by
  have hheader : (writeHeader s ctLeader).Holds 0 (headerBytes s 0x01#8) := writeHeader_holds s ctLeader
  have hflags := Memory.holds_then16 0x0000#16 hheader (b := 8) rfl
  have hcode := Memory.holds_then16 s.params.leaderPtype hflags (b := 10) rfl
  have htsHi := Memory.holds_then32 s.inTsHi hcode (b := 12) rfl
  have htsLo := Memory.holds_then32 s.inTsLo htsHi (b := 16) rfl
  have hformat := Memory.holds_then32 s.inPixelFormat htsLo (b := 20) rfl
  have hwidth := Memory.holds_then32 s.inWidth hformat (b := 24) rfl
  have hheight := Memory.holds_then32 s.inHeight hwidth (b := 28) rfl
  have hx := Memory.holds_then32 s.inXOffset hheight (b := 32) rfl
  exact Memory.holds_then32 s.inYOffset hx (b := 36) rfl

/-- The leader builder writes no byte of PB but its forty (43_encoder.md R127). -/
theorem leaderPacket_read_of_le (s : State) {k : Nat} (hk : 40 ≤ k) : (leaderPacket s).read k = s.pb.read k := by
  simp (disch := omega) only [leaderPacket, Memory.read_write16_of_apart, Memory.read_write32_of_apart,
    writeHeader_read_of_le]

/-- Settles O34: the leader's bytes lie field behind field, each field written behind the bytes before it. -/
theorem encLeaderWritesFortyBytes : Obligations.EncLeaderWritesFortyBytes :=
  ⟨rfl,
    fun s hcap => ⟨leaderPacket s, encodePacket_finishes hcap _ _, leaderPacket_holds s,
      fun _ hk => leaderPacket_read_of_le s hk⟩,
    fun _ hcap => encodePacket_raises hcap _ _⟩

/-! ## Trailer -/

/-- The trailer's bytes, field behind field (43_encoder.md R128). -/
theorem trailerPacket_holds (s : State) : (trailerPacket s).Holds 0
    (headerBytes s 0x02#8 ++ bytes32 s.params.trailerPtype ++ [0x00#8, 0x00#8, 0x00#8, 0x00#8]) := by
  have hheader : (writeHeader s ctTrailer).Holds 0 (headerBytes s 0x02#8) := writeHeader_holds s ctTrailer
  have hcode := Memory.holds_then32 s.params.trailerPtype hheader (b := 8) rfl
  exact Memory.holds_then32 0x00000000#32 hcode (b := 12) rfl

/-- The trailer builder writes no byte of PB but its sixteen (43_encoder.md R128). -/
theorem trailerPacket_read_of_le (s : State) {k : Nat} (hk : 16 ≤ k) : (trailerPacket s).read k = s.pb.read k := by
  simp (disch := omega) only [trailerPacket, Memory.read_write32_of_apart, writeHeader_read_of_le]

/-- Settles O35, from the trailer's bytes and its frame. -/
theorem encTrailerWritesSixteenBytes : Obligations.EncTrailerWritesSixteenBytes :=
  ⟨rfl,
    fun s hcap => ⟨trailerPacket s, encodePacket_finishes hcap _ _, trailerPacket_holds s,
      fun _ hk => trailerPacket_read_of_le s hk⟩,
    fun _ hcap => encodePacket_raises hcap _ _⟩

/-! ## Data block -/

/-- The copy starts behind the header and leaves it (43_encoder.md R129). -/
theorem dataBlockPacket_holds (s : State) : (dataBlockPacket s).Holds 0 (headerBytes s 0x03#8) := by
  intro j b hj
  have hlt : j < 8 := (List.getElem?_eq_some_iff.1 hj).1
  rw [dataBlockPacket, Memory.read_copyInto, if_neg (by omega)]
  exact writeHeader_holds s ctDataBlock j b hj

/-- The payload is the front of SB, each byte with its written mark (43_encoder.md R129). -/
theorem dataBlockPacket_read_payload (s : State) {i : Nat} (hi : i < dataBlockLength s) :
    (dataBlockPacket s).read (8 + i) = s.sb.read i := by
  rw [dataBlockPacket, Memory.read_copyInto, if_pos (by omega), Nat.add_sub_cancel_left]

/-- The data-block builder writes no byte of PB behind its payload (43_encoder.md R129). -/
theorem dataBlockPacket_read_of_le (s : State) {k : Nat} (hk : 8 + dataBlockLength s ≤ k) :
    (dataBlockPacket s).read k = s.pb.read k := by
  rw [dataBlockPacket, Memory.read_copyInto, if_neg (by omega), writeHeader_read_of_le s _ (by omega)]

/-- The data block never exceeds ENC_CAP, so its size fits in RESULT (43_encoder.md R129). -/
theorem toNat_dataBlockSize {s : State} (h : 8 ≤ s.encCap.toNat) :
    (BitVec.ofNat 64 (8 + dataBlockLength s)).toNat = min (8 + s.inDataLen.toNat) s.encCap.toNat := by
  have hcap := s.encCap.isLt
  rw [BitVec.toNat_ofNat, dataBlockLength]
  omega

/-- The copy never reads SB past its end: SB_SIZE is at least PB_SIZE - 8 (43_encoder.md R129; 00_scope.md R5). -/
theorem dataBlockLength_le_sbSize {s : State} (hp : s.params.Legal) (hw : s.WarlLegal) :
    dataBlockLength s ≤ s.params.sbSize := by
  obtain ⟨-, -, hsb, -⟩ := hp
  obtain ⟨-, hcap⟩ := hw
  calc dataBlockLength s
      ≤ s.encCap.toNat - 8 := min_le_right _ _
    _ ≤ s.params.pbSize - 8 := Nat.sub_le_sub_right hcap 8
    _ ≤ s.params.sbSize := hsb

/-- Settles O36: the copied length is `dataBlockLength`, and RESULT the lesser of the whole request and ENC_CAP. -/
theorem encDataBlockCopiesTheSpan : Obligations.EncDataBlockCopiesTheSpan := by
  refine ⟨rfl, fun s n h8 hn => ?_, fun _ hcap => encodePacket_raises hcap _ _⟩
  obtain rfl : n = dataBlockLength s := hn
  refine ⟨⟨dataBlockPacket s, encodePacket_finishes h8 _ _, dataBlockPacket_holds s,
      fun _ hi => dataBlockPacket_read_payload s hi, fun _ hk => dataBlockPacket_read_of_le s hk⟩,
    ⟨_, encodePacket_of_le h8 _ _, ?_⟩, dataBlockLength_le_sbSize⟩
  rw [State.result_answer, toNat_dataBlockSize h8]
  omega

end Sys2Proof.Machine
end

section
/-! SUPPORT. The statements on the byte-order converter (44_byteorder_ops.md). -/

namespace Sys2Proof.Machine

/-! ## Bytes of a value -/

/-- The byte of a value from bit k on, as a number. -/
theorem toNat_byteAt {n : Nat} (v : BitVec n) (k : Nat) : (v.extractLsb' k 8).toNat = v.toNat / 2 ^ k % 256 := by
  rw [BitVec.extractLsb'_toNat, Nat.shiftRight_eq_div_pow]

/-- Byte 0 of a byte is the byte. -/
theorem byte_zero_of_byte (b : Byte) : b.extractLsb' (8 * 0) 8 = b := BitVec.extractLsb'_eq_self

/-- Byte 0 of a join is the byte joined last. -/
theorem byte_zero_join {n : Nat} (h : BitVec n) (b : Byte) : (h ++ b).extractLsb' (8 * 0) 8 = b :=
  (BitVec.extractLsb'_append_eq_of_add_le (Nat.le_refl 8)).trans (byte_zero_of_byte b)

/-- The bytes of a join above byte 0 are those of the part before the last byte. -/
theorem byte_succ_join {n : Nat} (h : BitVec n) (b : Byte) (j : Nat) :
    (h ++ b).extractLsb' (8 * (j + 1)) 8 = h.extractLsb' (8 * j) 8 := by
  rw [BitVec.extractLsb'_append_eq_of_le (by omega), Nat.mul_succ, Nat.add_sub_cancel]

/-! ## Sixteen bits -/

/-- Two bytes reversed, as a number (44_byteorder_ops.md R132). -/
theorem toNat_swap16 (v : Half) : (swap16 v).toNat = v.toNat % 256 * 256 + v.toNat / 256 := by
  simp only [swap16, toNat_join8, toNat_byteAt]
  omega

/-- Reversing two bytes is its own inverse (44_byteorder_ops.md R132). -/
theorem swap16_swap16 (v : Half) : swap16 (swap16 v) = v := by
  apply BitVec.eq_of_toNat_eq
  rw [toNat_swap16, toNat_swap16]
  omega

/-- RESULT_LO, moved to ARG_LO, gives its low half as the 16-bit operand (30_encoding.md R88). -/
theorem arg16_of_argLo_eq_resultLo {s u : State} {x : Half} (h : u.argLo = (s.answer (x.setWidth 64)).resultLo) :
    u.arg16 = x := by
  apply BitVec.eq_of_toNat_eq
  rw [toNat_arg16, h, State.answer_resultLo, BitVec.extractLsb'_toNat, BitVec.toNat_setWidth, Nat.shiftRight_zero]
  omega

/-- Settles O40: the operand is ARG modulo 2^16, and the second swap takes the first one's result as its operand. -/
theorem bswap16ReversesTwoBytes : Obligations.Bswap16ReversesTwoBytes := by
  refine ⟨rfl, fun s => ?_, fun s t u ht hlo _ => ?_⟩
  · have hval : (swap16 s.arg16).toNat = s.argLo.toNat % 256 * 256 + s.argLo.toNat / 256 % 256 := by
      rw [toNat_swap16, toNat_arg16]
      omega
    rw [exec, execBswap16, State.answer_eq, ← hval, BitVec.ofNat_toNat]
  · obtain rfl : s.answer ((swap16 s.arg16).setWidth 64) = t := Host.Outcome.next.inj ht
    refine ⟨_, rfl, ?_⟩
    rw [State.result_answer, arg16_of_argLo_eq_resultLo hlo, swap16_swap16, ← toNat_arg16,
      BitVec.toNat_setWidth_of_le (by decide)]

/-! ## Thirty-two bits -/

/-- Four bytes reversed, as a number (44_byteorder_ops.md R133). -/
theorem toNat_swap32 (v : Word) : (swap32 v).toNat =
    v.toNat % 256 * 2 ^ 24 + v.toNat / 256 % 256 * 2 ^ 16 + v.toNat / 2 ^ 16 % 256 * 2 ^ 8 + v.toNat / 2 ^ 24 := by
  simp only [swap32, toNat_join, toNat_byteAt, Nat.reducePow]
  omega

/-- Settles O41: RESULT is the reversed word as a number. -/
theorem bswap32ReversesFourBytes : Obligations.Bswap32ReversesFourBytes := by
  refine ⟨rfl, fun s => ?_⟩
  rw [exec, execBswap32, State.answer_eq, ← toNat_swap32, BitVec.ofNat_toNat]

/-! ## Sixty-four bits -/

/-- Byte j of eight bytes reversed is byte 7 - j: j bytes are joined behind it (44_byteorder_ops.md R134). -/
theorem swap64_byte (v : DWord) {j : Nat} (hj : j < 8) :
    (swap64 v).extractLsb' (8 * j) 8 = v.extractLsb' (8 * (7 - j)) 8 := by
  unfold swap64
  interval_cases j <;> simp only [byte_succ_join, byte_zero_join, byte_zero_of_byte]

/-- Settles O42: the command swaps all of ARG at once. -/
theorem bswap64ReversesEightBytes : Obligations.Bswap64ReversesEightBytes := by
  refine ⟨rfl, fun s => ⟨swap64 s.arg, congrArg _ (State.answer_eq s _), fun j hj => ?_⟩⟩
  rw [← toNat_byteAt, ← toNat_byteAt, swap64_byte s.arg hj]

end Sys2Proof.Machine
end

section
/-! SUPPORT. The statements on the command word (30_encoding.md Part B) and its issue (40_classify.md). -/

namespace Sys2Proof.Machine

/-! ## Decode and encode -/

/-- Every command's word decodes to it (30_encoding.md R85, R90). -/
theorem decode_encode (i : Instr) : decode (encode i) = .ok i := by cases i <;> rfl

/-- An opcode the map lists is the opcode of the command listed for it (30_encoding.md R90). -/
theorem opcode_of_decodeOpcode {op : BitVec 8} {i : Instr} (h : decodeOpcode op = .ok i) : i.opcode = op := by
  unfold decodeOpcode at h
  split at h
  case h_28 => cases h
  all_goals
    next hop =>
      cases h
      exact BitVec.eq_of_toNat_eq hop.symm

/-- A word that decodes has its reserved field 0 and a listed opcode (30_encoding.md R86). -/
theorem decode_eq_ok {w : Word} {i : Instr} (h : decode w = .ok i) :
    reservedField w = 0#24 ∧ decodeOpcode (opcodeField w) = .ok i := by
  unfold decode at h
  split at h
  · next hr => exact ⟨hr, h⟩
  · cases h

/-- A word is its two fields side by side (30_encoding.md R85). -/
theorem reservedField_join_opcodeField (w : Word) : (reservedField w ++ opcodeField w : Word) = w := by
  apply BitVec.eq_of_toNat_eq
  rw [toNat_join, toNat_reservedField, toNat_opcodeField]
  omega

/-- No word but a command's own decodes to it (30_encoding.md R86). -/
theorem encode_of_decode {w : Word} {i : Instr} (h : decode w = .ok i) : encode i = w := by
  obtain ⟨hr, hop⟩ := decode_eq_ok h
  rw [encode, opcode_of_decodeOpcode hop, ← hr]
  exact reservedField_join_opcodeField w

/-- An opcode the decoder has no row for lies in a gap of the map (30_encoding.md R89). -/
theorem gap_of_decodeOpcode {op : BitVec 8} {r : IllegalWord} (h : decodeOpcode op = .error r) :
    (0x0A ≤ op.toNat ∧ op.toNat ≤ 0x0F) ∨ (0x1B ≤ op.toNat ∧ op.toNat ≤ 0x1F) ∨
      (0x23 ≤ op.toNat ∧ op.toNat ≤ 0x2F) ∨ 0x33 ≤ op.toNat := by
  unfold decodeOpcode at h
  split at h
  case h_28 =>
    simp only [imp_false] at *
    omega
  all_goals cases h

/-- A word the decoder refuses is one R89 lists. -/
theorem wordIllegal_of_decode {w : Word} {r : IllegalWord} (h : decode w = .error r) : WordIllegal w := by
  unfold WordIllegal
  by_cases hr : reservedField w = 0#24
  · rw [decode, if_pos hr] at h
    have hlow : w.toNat / 256 = 0 := by rw [← toNat_reservedField, hr]; rfl
    have hgap := gap_of_decodeOpcode h
    rw [toNat_opcodeField] at hgap
    omega
  · have hhigh : w.toNat / 256 ≠ 0 := fun h0 =>
      hr (BitVec.eq_of_toNat_eq ((toNat_reservedField w).trans h0))
    omega

/-- The check on words passes exactly those R89 does not list. -/
theorem legalWord_iff (w : Word) : legalWord w = true ↔ ¬ WordIllegal w := by
  simp only [legalWord, reservedIsZero, opcodeIsListed, WordIllegal, Bool.and_eq_true, Bool.or_eq_true,
    decide_eq_true_eq, beq_iff_eq]
  omega

/-- Settles O16: the decoder's rows and R89's gaps cover the opcodes between them. -/
theorem decodeAndEncodeAgree : Obligations.DecodeAndEncodeAgree :=
  ⟨fun i _ => decode_encode i, fun _ _ h => (encode_of_decode h).symm,
    fun _ => ⟨fun ⟨_, h⟩ => wordIllegal_of_decode h, decode_of_wordIllegal⟩, legalWord_iff⟩

/-- Settles O17, each word by running the decoder on it. -/
theorem someWordsDecodeAsTheMapSays : Obligations.SomeWordsDecodeAsTheMapSays :=
  ⟨rfl, rfl, rfl, rfl, rfl, rfl, rfl⟩

/-! ## Issue -/

/-- Settles O18: a word that decodes is issued as its command. -/
theorem stepRunsTheDecodedCommand : Obligations.StepRunsTheDecodedCommand := by
  intro s rest w i h hw
  rw [step_write_cmd h, issueCommand, hw]
  rfl

end Sys2Proof.Machine
end

section
/-! SUPPORT. The statements over all commands: what a command changes, what it reads, and where it stops. -/

namespace Sys2Proof.Machine

/-! ## What a command changes -/

/-- A command changes STATUS, RESULT and PB at most (40_classify.md R99). -/
theorem exec_frame {i : Instr} {s t : State} (h : exec i s = .next t) :
    t = { s with status := t.status, resultLo := t.resultLo, resultHi := t.resultHi, pb := t.pb } := by
  rcases exec_eq_next h with ⟨-, rfl⟩ | ⟨-, v, rfl⟩ | ⟨-, rfl⟩ | ⟨-, ⟨-, rfl⟩ | ⟨-, rfl⟩⟩ <;> rfl

/-- Only a builder writes PB (43_encoder.md). -/
theorem exec_pb {i : Instr} {s t : State} (hi : i ∉ encoders) (h : exec i s = .next t) : t.pb = s.pb := by
  rcases exec_eq_next h with ⟨-, rfl⟩ | ⟨-, v, rfl⟩ | ⟨-, rfl⟩ | ⟨he, -⟩
  · rfl
  · rfl
  · rfl
  · exact absurd he hi

/-- A command leaves STATUS in one of two ways: `finish`, or SIZE or CAP raised (60_exceptions.md R136). -/
theorem exec_status_cases {i : Instr} {s t : State} (h : exec i s = .next t) :
    t.status = statusFinish s.status ∨ ∃ e : CmdError, t.status = statusRaise s.status e := by
  rcases exec_status h with ⟨-, -, ht⟩ | ⟨-, ht⟩ | ⟨-, -, ht⟩
  · exact .inr ⟨.size, ht⟩
  · exact .inr ⟨.cap, ht⟩
  · exact .inl ht

/-- Every command sets DONE (40_classify.md R99). -/
theorem exec_sets_done {i : Instr} {s t : State} (h : exec i s = .next t) : t.status.getLsbD 0 = true := by
  rcases exec_status_cases h with ht | ⟨e, ht⟩
  · rw [ht, getLsbD_statusFinish _ (by decide), if_pos rfl]
  · rw [ht, getLsbD_statusRaise _ _ (by decide), if_pos rfl]

/-- An error sets no STATUS bit but its E_* bit and those of LAST_ERR, beside DONE (10_state.md R24). -/
theorem CmdError.sets_eq_false (e : CmdError) {j : Nat} (hj : j ∉ [0, 8, 9, 10, 16, 17, 18, 19]) :
    e.sets j = false := by
  simp only [List.mem_cons, List.not_mem_nil, or_false, not_or] at hj
  cases e <;> simp [CmdError.sets, hj]

/-- A command keeps every STATUS bit but DONE, E_ILLEGAL, E_SIZE, E_CAP and LAST_ERR (10_state.md R24). -/
theorem exec_keeps_status_bit {i : Instr} {s t : State} (h : exec i s = .next t) {j : Nat} (hj : j < 32)
    (hn : j ∉ [0, 8, 9, 10, 16, 17, 18, 19]) : t.status.getLsbD j = s.status.getLsbD j := by
  have h0 : j ≠ 0 := fun h0 => hn (by simp [h0])
  have hlast : ¬ (16 ≤ j ∧ j ≤ 19) := fun hl => hn (by simp; omega)
  rcases exec_status_cases h with ht | ⟨e, ht⟩
  · rw [ht, getLsbD_statusFinish _ hj, if_neg h0, if_neg hlast]
  · rw [ht, getLsbD_statusRaise _ _ hj, if_neg h0, CmdError.sets_eq_false e hn, if_neg Bool.false_ne_true, if_neg hlast]

/-- No byte of a packet stands at or behind the packet's length (43_encoder.md R127-R129). -/
theorem packetOf_read_of_le {i : Instr} (hi : i ∈ encoders) (s : State) {k : Nat} (hk : (packetOf i s).2.2 ≤ k) :
    (packetOf i s).2.1.read k = s.pb.read k := by
  simp only [encoders, List.mem_cons, List.not_mem_nil, or_false] at hi
  rcases hi with rfl | rfl | rfl <;> simp only [packetOf] at hk ⊢
  · exact leaderPacket_read_of_le s hk
  · exact trailerPacket_read_of_le s hk
  · exact dataBlockPacket_read_of_le s hk

/-- A packet's length fits in RESULT. -/
theorem toNat_packetLength (i : Instr) (s : State) :
    (BitVec.ofNat 64 (packetOf i s).2.2).toNat = (packetOf i s).2.2 := by
  have hlt : (packetOf i s).2.2 < 2 ^ 64 := by
    have hcap := s.encCap.isLt
    unfold packetOf
    split <;> simp only [dataBlockLength] <;> omega
  rw [BitVec.toNat_ofNat, Nat.mod_eq_of_lt hlt]

/-- A builder without capacity leaves RESULT 0 and PB as it was (43_encoder.md R126). -/
theorem exec_encoder_short {i : Instr} (hi : i ∈ encoders) {s t : State} (h : exec i s = .next t)
    (hcap : s.encCap.toNat < (packetOf i s).1) : t.result = 0#64 ∧ t.pb = s.pb := by
  rw [exec_encoder hi, encodePacket_of_lt hcap] at h
  cases h
  exact ⟨State.result_failWith s .cap, rfl⟩

/-- A builder with capacity answers its packet's length and writes no byte behind it (43_encoder.md R126). -/
theorem exec_encoder_writes {i : Instr} (hi : i ∈ encoders) {s t : State} (h : exec i s = .next t)
    (hcap : (packetOf i s).1 ≤ s.encCap.toNat) :
    t.result.toNat = (packetOf i s).2.2 ∧ ∀ k : Nat, (packetOf i s).2.2 ≤ k → t.pb.read k = s.pb.read k := by
  rw [exec_encoder hi, encodePacket_of_le hcap] at h
  cases h
  exact ⟨by rw [State.result_answer, toNat_packetLength], fun k hk => packetOf_read_of_le hi s hk⟩

/-- Settles O45, from the frame of all commands and the two ends of a builder. -/
theorem commandsChangeOnlyStatusResultAndEncodedBytes :
    Obligations.CommandsChangeOnlyStatusResultAndEncodedBytes := by
  intro i s t h
  refine ⟨exec_frame h, fun hi => exec_pb hi h, fun fixed written hmem => ?_, fun hi => ?_, exec_sets_done h,
    fun j hj hn => exec_keeps_status_bit h hj hn⟩
  · simp only [List.mem_cons, Prod.mk.injEq, List.not_mem_nil, or_false] at hmem
    obtain ⟨hi, hfixed, hwritten⟩ : i ∈ encoders ∧ fixed = (packetOf i s).1 ∧ written = (packetOf i s).2.2 := by
      rcases hmem with ⟨rfl, rfl, rfl⟩ | ⟨rfl, rfl, rfl⟩ | ⟨rfl, rfl, rfl⟩ <;> simp [packetOf]
    rw [hfixed, hwritten]
    exact ⟨exec_encoder_short hi h, exec_encoder_writes hi h⟩
  · subst hi
    cases h
    rfl

/-- PB[4] of a packet is the content type with the mode bit clear (43_encoder.md R126). -/
theorem packetOf_read_four {i : Instr} (hi : i ∈ encoders) (s : State) :
    ∃ b : Byte, (packetOf i s).2.1.read 4 = some b ∧ b.toNat < 128 := by
  simp only [encoders, List.mem_cons, List.not_mem_nil, or_false] at hi
  rcases hi with rfl | rfl | rfl <;> simp only [packetOf]
  · exact ⟨0x01#8, (leaderPacket_holds s).read (j := 4) rfl, by decide⟩
  · exact ⟨0x02#8, (trailerPacket_holds s).read (j := 4) rfl, by decide⟩
  · exact ⟨0x03#8, (dataBlockPacket_holds s).read (j := 4) rfl, by decide⟩

/-- Settles O37: a builder's two ends, and the content types the packets carry. -/
theorem encodedPacketsAreCompact : Obligations.EncodedPacketsAreCompact := by
  intro i s t hi h
  rw [exec_encoder hi, encodePacket_eq_next] at h
  rcases h with ⟨-, rfl⟩ | ⟨-, rfl⟩
  · exact .inl ⟨State.failWith_cap s, rfl⟩
  · exact .inr (packetOf_read_four hi s)

/-! ## What a command reads -/

/-- The commands that name ARG as an operand (30_encoding.md R88). -/
abbrev argCommands : List Instr := [.isError, .mapBufferKind, .scaleTs, .bswap16, .bswap32, .bswap64]

/-- The commands that name TICK_FREQ as an operand (42_leader_timestamp.md R121, R122). -/
abbrev freqCommands : List Instr := [.getTsNs, .scaleTs]

/-- The commands that name no byte of PB: NOP and the value commands (30_encoding.md R88). -/
abbrev pbFreeCommands : List Instr := [.nop, .isError, .mapBufferKind, .scaleTs, .bswap16, .bswap32, .bswap64]

/-- An update that the ends of a command commute with: it keeps clear of STATUS and RESULT. -/
structure KeepsClearOfEnds (f : State → State) : Prop where
  finish : ∀ s : State, (f s).finish = f s.finish := by intros; rfl
  answer : ∀ (s : State) (v : DWord), (f s).answer v = f (s.answer v) := by intros; rfl
  failWith : ∀ (s : State) (e : CmdError), (f s).failWith e = f (s.failWith e) := by intros; rfl

/-- The operands of the command are the same before and after the update (10_state.md section 5). An update that does not
touch an operand keeps it by definition, so a proof names only the fields it has an argument for. -/
structure KeepsOperands (f : State → State) (i : Instr) (s : State) : Prop where
  pb : i ∉ pbFreeCommands → (f s).pb = s.pb := by intros; rfl
  pktLen : i = .getDataSize → (f s).pktLen = s.pktLen := by intros; rfl
  argLo : i ∈ argCommands → (f s).argLo = s.argLo := by intros; rfl
  argHi : i ∈ argCommands → (f s).argHi = s.argHi := by intros; rfl
  freq : i ∈ freqCommands → (f s).tickFreq = s.tickFreq := by intros; rfl
  cap : i ∈ encoders → (f s).encCap = s.encCap := by intros; rfl
  packet : i ∈ encoders → packetOf i (f s) = packetOf i s := by intros; rfl
  setPb : i ∈ encoders → ∀ m : Memory, (f s).setPb m = f (s.setPb m) := by intros; rfl

section
variable {f : State → State} {s : State}

/-- GET_DATA_SIZE commutes with an update that keeps its operands (41_header_fields.md R110). -/
theorem execGetDataSize_map (hf : KeepsClearOfEnds f) (hpb : (f s).pb = s.pb) (hlen : (f s).pktLen = s.pktLen) :
    execGetDataSize (f s) = mapNext (execGetDataSize s) f := by
  unfold execGetDataSize
  rw [hpb, hlen]
  split
  · rw [hf.failWith, mapNext_next]
  · split
    · split
      · rw [hf.failWith, mapNext_next]
      · rw [hf.answer, mapNext_next]
    · rfl

/-- A builder commutes with an update that keeps its operands (43_encoder.md R126). -/
theorem exec_encoder_map {i : Instr} (hi : i ∈ encoders) (hf : KeepsClearOfEnds f) (ho : KeepsOperands f i s) :
    exec i (f s) = mapNext (exec i s) f := by
  rw [exec_encoder hi, exec_encoder hi, ho.packet hi]
  refine encodePacket_map (ho.cap hi) (hf.failWith s .cap) (fun m r => ?_) _ _ _
  rw [ho.setPb hi, hf.answer]

/-- A command's outcome depends on no part of the state but its operands (10_state.md R48). -/
theorem exec_map {i : Instr} (hf : KeepsClearOfEnds f) (ho : KeepsOperands f i s) :
    exec i (f s) = mapNext (exec i s) f := by
  by_cases he : i ∈ encoders
  · exact exec_encoder_map he hf ho
  have hread : ∀ v : Option DWord, answerRead (f s) v = mapNext (answerRead s v) f := answerRead_map hf.answer s
  obtain ⟨hpb, hlen, hlo, hhi, hfreq, -, -, -⟩ := ho
  cases i <;> simp only [List.mem_cons, List.not_mem_nil, reduceCtorEq, or_false, or_true, or_self,
    not_true_eq_false, not_false_eq_true, forall_const] at he hpb hlen hlo hhi hfreq <;> simp only [exec]
  case nop => simp only [execNop, hf.finish, mapNext_next]
  case getDataSize => exact execGetDataSize_map hf hpb hlen
  case scaleTs => simp only [execScaleTs, State.arg, hlo, hhi, hfreq, hf.answer, mapNext_next]
  case isError | mapBufferKind | bswap16 | bswap32 | bswap64 =>
    simp only [execIsError, execMapBufferKind, execBswap16, execBswap32, execBswap64, State.arg16, State.arg, hlo, hhi,
      hf.answer, mapNext_next]
  case getTsNs => simp only [execGetTsNs, hpb, hfreq, hread]
  all_goals
    simp only [execClassify, execGetHeaderMode, execGetPacketType, execGetContentType, execGetPacketId, execGetFrameId,
      execGetDataOffset, execGetPayloadType, execGetBufferKind, execGetTsTicks, execGetPixelFormat, execGetWidth,
      execGetHeight, execGetXOffset, execGetYOffset, answerLeader32, hpb, hread]

end

/-- Replace TICK_FREQ. -/
def State.withTickFreq (lo hi : Word) (s : State) : State := { s with tickFreqLo := lo, tickFreqHi := hi }

/-- Replace ARG. -/
def State.withArgPair (lo hi : Word) (s : State) : State := { s with argLo := lo, argHi := hi }

/-- Replace the registers that every builder reads. -/
def State.withHeaderInputs (c p : Word) (f : Half) (s : State) : State :=
  { s with encCap := c, inFrameId := f, inPacketId := p }

/-- Replace the registers that only the leader builder reads. -/
def State.withLeaderInputs (tsLo tsHi format width height x y : Word) (s : State) : State :=
  { s with inTsLo := tsLo, inTsHi := tsHi, inPixelFormat := format, inWidth := width, inHeight := height,
           inXOffset := x, inYOffset := y }

/-- Replace what only the data-block builder reads. -/
def State.withPayload (n : Word) (m : Memory) (s : State) : State := { s with inDataLen := n, sb := m }

/-- The trailer and the data block hold no leader field (43_encoder.md R128, R129). -/
theorem packetOf_withLeaderInputs {i : Instr} (hi : i ≠ .encLeader) (tsLo tsHi format width height x y : Word)
    (s : State) : packetOf i (s.withLeaderInputs tsLo tsHi format width height x y) = packetOf i s := by
  cases i
  case encLeader => exact absurd rfl hi
  all_goals rfl

/-- The leader and the trailer hold no payload (43_encoder.md R127, R128). -/
theorem packetOf_withPayload {i : Instr} (he : i ∈ encoders) (hi : i ≠ .encDataBlock) (n : Word) (m : Memory)
    (s : State) : packetOf i (s.withPayload n m) = packetOf i s := by
  simp only [encoders, List.mem_cons, List.not_mem_nil, or_false] at he
  rcases he with rfl | rfl | rfl
  · rfl
  · rfl
  · exact absurd rfl hi

/-- No builder is among the commands that name no byte of PB. -/
theorem not_encoder_of_pbFree {i : Instr} (hi : i ∈ pbFreeCommands) : i ∉ encoders := by
  revert i
  decide

/-- Settles O46: each update keeps the operands of the commands its clause speaks of. -/
theorem commandsReadOnlyTheirOperands : Obligations.CommandsReadOnlyTheirOperands := by
  intro i s
  refine ⟨fun hi lo hi' => ?_, fun hi lo hi' => ?_, fun hi c p f => ?_, fun hi a b c d e f g => ?_, fun hi n m => ?_,
    fun hi m => ?_⟩
  · exact exec_map (f := State.withTickFreq lo hi') {} { freq := fun h => absurd h hi }
  · exact exec_map (f := State.withArgPair lo hi') {}
      { argLo := fun h => absurd h hi, argHi := fun h => absurd h hi }
  · exact exec_map (f := State.withHeaderInputs c p f) {}
      { cap := fun h => absurd h hi, packet := fun h => absurd h hi }
  · exact exec_map (f := State.withLeaderInputs a b c d e f g) {}
      { packet := fun _ => packetOf_withLeaderInputs hi a b c d e f g s }
  · exact exec_map (f := State.withPayload n m) {} { packet := fun h => packetOf_withPayload h hi n m s }
  · have he := not_encoder_of_pbFree hi
    exact exec_map (f := fun t => t.setPb m) {}
      { pb := fun h => absurd hi h, packet := fun h => absurd h he, setPb := fun h => absurd h he }

/-! ## Where a command stops -/

/-- A command stops where one of the bytes it names is unwritten (20_memory.md R67). -/
theorem exec_of_unwritten {i : Instr} {s : State} {k : Nat} (hk : k ∈ namedBytes s i) (h : s.pb.Unwritten k) :
    exec i s = .fault .unwrittenRead := (exec_eq_fault i s).2 ⟨k, hk, h⟩

/-- The mode's bytes on a compact packet. -/
theorem bytesByMode_compact {pb : Memory} {b4 : Byte} (h4 : pb.read 4 = some b4) (hm : b4.toNat < 128)
    (c e : List Nat) : bytesByMode pb c e = c := (bytesByMode_of_read h4 c e).trans (if_pos hm)

/-- The mode's bytes on an extended packet. -/
theorem bytesByMode_extended {pb : Memory} {b4 : Byte} (h4 : pb.read 4 = some b4) (hm : 128 ≤ b4.toNat)
    (c e : List Nat) : bytesByMode pb c e = e := (bytesByMode_of_read h4 c e).trans (if_neg (Nat.not_lt.2 hm))

/-- The commands that read PB[4] whatever PKT_LEN is. -/
theorem four_mem_namedBytes {i : Instr} (hi : i ∉ pbFreeCommands) (he : i ∉ encoders) (ht : i ≠ .getPacketType)
    (hd : i ≠ .getDataSize) (s : State) : 4 ∈ namedBytes s i := by
  cases i <;> simp_all [namedBytes, leaderBytes]

/-- The bytes of the leader field that a leader accessor names, once PB[4] is written (42_leader_timestamp.md R112). -/
theorem mem_namedBytes_leader {i : Instr} {o n : Nat} (hi : (i, o, n) ∈
      ([(.getPayloadType, 2, 2), (.getBufferKind, 2, 2), (.getPixelFormat, 12, 4), (.getWidth, 16, 4),
        (.getHeight, 20, 4), (.getXOffset, 24, 4), (.getYOffset, 28, 4), (.getTsTicks, 4, 8), (.getTsNs, 4, 8)] :
        List (Instr × Nat × Nat))) {s : State} {b4 : Byte} (h4 : s.pb.read 4 = some b4) {j : Nat} (hj : j < n) :
    payloadAt b4 + o + j ∈ namedBytes s i := by
  have hmem : payloadAt b4 + o + j ∈ leaderBytes s.pb o n := (mem_leaderBytes h4 o n _).2 (.inr ⟨j, hj, rfl⟩)
  fin_cases hi <;> exact hmem

/-- Settles O44: each clause points at an unwritten byte among those the command names. -/
theorem unwrittenBytesFault : Obligations.UnwrittenBytesFault := by
  intro s
  refine ⟨fun i hi h => ?_, fun h h8 => (execGetDataSize_eq_fault s).2 ⟨h8, h⟩, fun h => ?_, fun b4 h4 => ?_⟩
  · have hclass : i ∉ pbFreeCommands ∧ i ∉ encoders ∧ i ≠ .getPacketType ∧ i ≠ .getDataSize := by
      revert i
      decide
    obtain ⟨hfree, he, ht, hd⟩ := hclass
    exact exec_of_unwritten (four_mem_namedBytes hfree he ht hd s) h
  · rcases h with h | h <;>
      exact ⟨exec_of_unwritten (by simp [namedBytes]) h, exec_of_unwritten (by simp [namedBytes]) h⟩
  · refine ⟨fun hm ⟨j, hj, h⟩ => exec_of_unwritten ?_ h, fun hm ⟨j, hj, h⟩ => exec_of_unwritten ?_ h,
      fun hm ⟨j, hj, h⟩ => exec_of_unwritten ?_ h, fun hm ⟨j, hj, h⟩ => exec_of_unwritten ?_ h,
      fun i o n hi ⟨j, hj, h⟩ => exec_of_unwritten (mem_namedBytes_leader hi h4 hj) h⟩
    · rw [namedBytes, bytesByMode_compact h4 hm]; simp; omega
    · rw [namedBytes, bytesByMode_extended h4 hm]; simp; omega
    · rw [namedBytes, bytesByMode_compact h4 hm]; simp; omega
    · rw [namedBytes, bytesByMode_extended h4 hm]; simp; omega

end Sys2Proof.Machine
end

section
/-! SUPPORT. The statements on register accesses (10_state.md section 3; 30_encoding.md Part C) and on the windows
(20_memory.md): what a transaction stores and answers, and where it stops. -/

namespace Sys2Proof.Machine

/-! ## Registers -/

/-- The clamp of R27 and R28 as a choice: a value that fits is kept, a larger one becomes PB_SIZE. -/
theorem clampToPb_eq (s : State) (v : Word) :
    clampToPb s v = if v.toNat ≤ s.params.pbSize then v else BitVec.ofNat 32 s.params.pbSize := by
  unfold clampToPb
  split
  · next h => rw [Nat.min_eq_left h, BitVec.ofNat_toNat, BitVec.setWidth_eq]
  · next h => rw [Nat.min_eq_right (Nat.le_of_not_le h)]

/-- The low half of a word as a number modulo 2^16 (10_state.md R32). -/
theorem extractHalf_eq (v : Word) : v.extractLsb' 0 16 = BitVec.ofNat 16 (v.toNat % 65536) := by
  apply BitVec.eq_of_toNat_eq
  simp

/-- Every address of the table of writes is that of a register, and the register's write has the table's effect. -/
theorem regWrite_of_mem_writeEffects {a : PortAddr} {upd : Word → State → State} (h : (a, upd) ∈ writeEffects) :
    a.toNat < 0x10000 ∧ a.toNat % 4 = 0 ∧ a.toNat ≠ 0x010 ∧
      ∀ (s : State) (v : Word) (r : Response), (regWrite s (regAt a.toNat) v).respond r = upd v (s.respond r) := by
  fin_cases h <;> refine ⟨by decide, by decide, by decide, fun s v r => ?_⟩ <;>
    simp [regAt, regWrite, State.respond, clampToPb_eq, extractHalf_eq] <;> rfl

/-- Settles O5: a row of the table is a register's write. -/
theorem registerWritesStore : Obligations.RegisterWritesStore := by
  intro a upd hmem s rest v h
  obtain ⟨ha, h4, hc, hw⟩ := regWrite_of_mem_writeEffects hmem
  rw [step_write_register h ha h4 hc, hw]
  rfl

/-- Every address of the table of reads is that of a register, and the register reads as the table says. -/
theorem regRead_of_mem_readAnswers {a : PortAddr} {get : State → Word} (h : (a, get) ∈ readAnswers) :
    a.toNat < 0x10000 ∧ a.toNat % 4 = 0 ∧
      ∀ (s : State) (rest : List HostEvent), regRead { s with pending := rest } (regAt a.toNat) = get s := by
  fin_cases h <;> refine ⟨by decide, by decide, fun s rest => ?_⟩ <;> simp [regAt, regRead]

/-- Settles O6: a row of the table is a register's read. -/
theorem registerReadsReturnTheRegister : Obligations.RegisterReadsReturnTheRegister := by
  intro a get hmem s rest h
  obtain ⟨ha, h4, hr⟩ := regRead_of_mem_readAnswers hmem
  rw [step_read_register h ha h4, hr]

/-! ## Register pairs -/

/-- The port's record is no operand of a register write. -/
theorem regWrite_answered (s : State) (rest : List HostEvent) (q : Response) (r : Reg) (v : Word) :
    regWrite (answered s rest q) r v = answered (regWrite s r v) rest q := by cases r <;> rfl

/-- The port's record is no operand of a register read. -/
theorem regRead_answered (s : State) (rest : List HostEvent) (q : Response) (r : Reg) :
    regRead (answered s rest q) r = regRead s r := rfl

/-- A 32-bit write of a register that is not CMD stores and is answered OKAY. -/
theorem step_write_answered {s : State} {rest : List HostEvent} {a : PortAddr} {v : Word}
    (h : s.Issues (.write a .word v) rest) (ha : a.toNat < 0x10000) (h4 : a.toNat % 4 = 0) (hc : a.toNat ≠ 0x010) :
    step s = .next (answered (regWrite s (regAt a.toNat) v) rest (.writeDone .okay)) := by
  rw [step_write_register h ha h4 hc]
  cases regAt a.toNat <;> rfl

/-- A loaded program stands in the queue alone where nothing was issued before it (30_encoding.md R98). -/
theorem State.load_pending {s : State} (hp : s.pending = []) (prog : List Txn) :
    (s.load prog).pending = prog.map HostEvent.bus := by simp [State.load, hp]

/-- Two data words answered OKAY, the high one last, are what rd64 leaves (30_encoding.md R97). -/
theorem State.lastRead64_of_responses {s : State} {hi lo : Word} {older : List Response}
    (h : s.responses = .readDone .okay hi :: .readDone .okay lo :: older) : s.lastRead64 = some (hi ++ lo) := by
  rw [State.lastRead64, h]
  rfl

/-- Of a register pair, both addresses are those of registers, and each register reads what was written to it. -/
structure StoresPair (a : PortAddr) : Prop where
  lo : a.toNat < 0x10000 ∧ a.toNat % 4 = 0 ∧ a.toNat ≠ 0x010
  hi : (a + 4#18).toNat < 0x10000 ∧ (a + 4#18).toNat % 4 = 0 ∧ (a + 4#18).toNat ≠ 0x010
  reads : ∀ (s : State) (l h : Word),
    regRead (regWrite (regWrite s (regAt a.toNat) l) (regAt (a + 4#18).toNat) h) (regAt a.toNat) = l ∧
    regRead (regWrite (regWrite s (regAt a.toNat) l) (regAt (a + 4#18).toNat) h) (regAt (a + 4#18).toNat) = h

/-- TICK_FREQ, ARG and IN_TS are such pairs (10_state.md R29, R30, R34). -/
theorem storesPair_of_mem {a : PortAddr} (h : a ∈ [0x00020#18, 0x00028#18, 0x00048#18]) : StoresPair a := by
  simp only [List.mem_cons, List.not_mem_nil, or_false] at h
  rcases h with rfl | rfl | rfl <;> exact ⟨by decide, by decide, fun _ _ _ => ⟨rfl, rfl⟩⟩

/-- After a response the port takes the next transaction of the queue. -/
theorem answered_issues {s : State} (hr : s.resetAsserted = false) (t : Txn) (rest : List HostEvent) (q : Response) :
    (answered s (.bus t :: rest) q).Issues t rest := ⟨hr, rfl⟩

/-- wr64 of a pair stores its two words, transaction by transaction (30_encoding.md R97). -/
theorem run_wr64 {a : PortAddr} (hpair : StoresPair a) {s : State} {v : DWord} {rest : List HostEvent}
    (hr : s.resetAsserted = false) (hp : s.pending = (wr64 a v).map HostEvent.bus ++ rest) :
    ∃ t1 t2 : State, step s = .next t1 ∧ step t1 = .next t2 ∧ t2.resetAsserted = false ∧ t2.pending = rest ∧
      regRead t2 (regAt (a + 4#18).toNat) ++ regRead t2 (regAt a.toNat) = v := by
  obtain ⟨⟨hlo, hlo4, hloc⟩, ⟨hhi, hhi4, hhic⟩, hreads⟩ := hpair
  have h1 := step_write_answered ⟨hr, hp⟩ hlo hlo4 hloc
  have hr1 : (regWrite s (regAt a.toNat) (v.extractLsb' 0 32)).resetAsserted = false :=
    (regWrite_resetAsserted _ _ _).trans hr
  have h2 := step_write_answered (answered_issues hr1 (wr32 (a + 4#18) (v.extractLsb' 32 32)) rest (.writeDone .okay))
    hhi hhi4 hhic
  refine ⟨_, _, h1, h2, (regWrite_resetAsserted _ _ _).trans hr1, rfl, ?_⟩
  obtain ⟨hrlo, hrhi⟩ := hreads s (v.extractLsb' 0 32) (v.extractLsb' 32 32)
  rw [regWrite_answered, regRead_answered, regRead_answered, regRead_answered, regRead_answered, hrlo, hrhi,
    join32_extract]

/-- rd64 of two registers leaves their values, high over low, and changes nothing but the record (30_encoding.md R97). -/
theorem run_rd64 {a : PortAddr} (hlo : a.toNat < 0x10000) (hlo4 : a.toNat % 4 = 0) (hhi : (a + 4#18).toNat < 0x10000)
    (hhi4 : (a + 4#18).toNat % 4 = 0) {s : State} (hr : s.resetAsserted = false)
    (hp : s.pending = (rd64 a).map HostEvent.bus) :
    ∃ t1 t2 : State, step s = .next t1 ∧ step t1 = .next t2 ∧
      t2 = { s with pending := [], responses := t2.responses } ∧
      t2.lastRead64 = some (regRead s (regAt (a + 4#18).toNat) ++ regRead s (regAt a.toNat)) :=
  ⟨_, _, step_read_register ⟨hr, hp⟩ hlo hlo4,
    step_read_register (answered_issues hr (rd32 (a + 4#18)) [] _) hhi hhi4, rfl, State.lastRead64_of_responses rfl⟩

/-- Settles O52: wr64 leaves the pair holding V, and rd64 joins the two registers again. -/
theorem pairReadFormsHighAndLow : Obligations.PairReadFormsHighAndLow := by
  refine ⟨fun a s v ha hr hp => ?_, fun s hr hp => ?_⟩
  · have hpair := storesPair_of_mem ha
    obtain ⟨⟨hlo, hlo4, -⟩, ⟨hhi, hhi4, -⟩, -⟩ := storesPair_of_mem ha
    have hload := (State.load_pending hp (wr64 a v ++ rd64 a)).trans List.map_append
    obtain ⟨t1, t2, h1, h2, hr2, hp2, hv⟩ := run_wr64 hpair (s := s.load (wr64 a v ++ rd64 a)) hr hload
    obtain ⟨t3, t4, h3, h4, hframe, hread⟩ := run_rd64 hlo hlo4 hhi hhi4 hr2 hp2
    exact ⟨t1, t2, t3, t4, h1, h2, h3, h4, by rw [hframe], by rw [hread, hv]⟩
  · obtain ⟨t1, t2, h1, h2, hframe, hread⟩ := run_rd64 (a := 0x00030#18) (by decide) (by decide) (by decide) (by decide)
      (s := s.load (rd64 0x00030#18)) hr (State.load_pending hp (rd64 0x00030#18))
    refine ⟨t1, t2, h1, h2, ?_, hread⟩
    rw [hframe, ← hp]
    rfl

end Sys2Proof.Machine
end

section
/-! SUPPORT. The statements on the windows of PB and SB (20_memory.md): the lanes of a write and of a read, what a read
leaves unchanged, the byte order the host sees, and when a transaction completes. -/

namespace Sys2Proof.Machine

/-! ## Window writes -/

/-- A window write carries lane i of the data word to byte k+i (20_memory.md R51). -/
theorem laneWrite_read_lane (m : Memory) (k : Nat) {w : Width} (v : Word) {i : Nat} (hi : i < w.bytes) :
    (laneWrite m k w v).read (k + i) = some (v.extractLsb' (8 * i) 8) := by
  rw [read_laneWrite, if_pos (by omega), Nat.add_sub_cancel_left]

/-- A window write leaves every byte outside its lanes (20_memory.md R51). -/
theorem laneWrite_read_apart (m : Memory) {k : Nat} {w : Width} (v : Word) {j : Nat} (hj : j < k ∨ k + w.bytes ≤ j) :
    (laneWrite m k w v).read j = m.read j := by
  rw [read_laneWrite, if_neg (by omega)]

section
variable {s : State} {rest : List HostEvent} {k : Nat} {w : Width}

/-- The step on an accepted write of the PB window. -/
theorem step_write_pb {v : Word} (hp : s.params.Legal) (ha : k % w.bytes = 0) (hk : k + w.bytes ≤ s.params.pbSize)
    (h : s.Issues (.write (BitVec.ofNat 18 (0x10000 + k)) w v) rest) :
    step s = .next { answered s rest (.writeDone .okay) with pb := laneWrite s.pb k w v } := by
  rw [step_of_issues h, transact, busWrite, decodeAccess_pb _ hp k w ha hk]
  rfl

/-- The step on an accepted write of the SB window. -/
theorem step_write_sb {v : Word} (hp : s.params.Legal) (ha : k % w.bytes = 0) (hk : k + w.bytes ≤ s.params.sbSize)
    (h : s.Issues (.write (BitVec.ofNat 18 (0x20000 + k)) w v) rest) :
    step s = .next { answered s rest (.writeDone .okay) with sb := laneWrite s.sb k w v } := by
  rw [step_of_issues h, transact, busWrite, decodeAccess_sb _ hp k w ha hk]
  rfl

/-- The step on an accepted read of the PB window. -/
theorem step_read_pb (hp : s.params.Legal) (ha : k % w.bytes = 0) (hk : k + w.bytes ≤ s.params.pbSize)
    (h : s.Issues (.read (BitVec.ofNat 18 (0x10000 + k)) w) rest) :
    step s = answerWindow { s with pending := rest } (laneRead s.pb k w) := by
  rw [step_of_issues h, transact, busRead, decodeAccess_pb _ hp k w ha hk]

/-- The step on an accepted read of the SB window. -/
theorem step_read_sb (hp : s.params.Legal) (ha : k % w.bytes = 0) (hk : k + w.bytes ≤ s.params.sbSize)
    (h : s.Issues (.read (BitVec.ofNat 18 (0x20000 + k)) w) rest) :
    step s = answerWindow { s with pending := rest } (laneRead s.sb k w) := by
  rw [step_of_issues h, transact, busRead, decodeAccess_sb _ hp k w ha hk]

end

/-- Settles O12, from the lanes and the frame of `laneWrite`. -/
theorem windowWritesPutLanes : Obligations.WindowWritesPutLanes := fun s _ k _ v hp ha =>
  ⟨fun hk h => ⟨_, step_write_pb hp ha hk h, fun _ hi => laneWrite_read_lane s.pb k v hi,
      fun _ hj => laneWrite_read_apart s.pb v hj⟩,
    fun hk h => ⟨_, step_write_sb hp ha hk h, fun _ hi => laneWrite_read_lane s.sb k v hi,
      fun _ hj => laneWrite_read_apart s.sb v hj⟩⟩

/-! ## Window reads -/

/-- The data word with byte i of the list in lane i, and 0 in the lanes past the list (20_memory.md R51). -/
def wordOfLanes (bs : List Byte) : Word := bs.getD 3 0#8 ++ bs.getD 2 0#8 ++ bs.getD 1 0#8 ++ bs.getD 0 0#8

theorem wordOfLanes_lane (bs : List Byte) {i : Nat} (hi : i < 4) :
    (wordOfLanes bs).extractLsb' (8 * i) 8 = bs.getD i 0#8 := by
  unfold wordOfLanes
  interval_cases i <;> simp only [byte_succ_join, byte_zero_join, byte_zero_of_byte]

/-- A byte fills lane 0 alone. -/
theorem wordOfLanes_byte (b0 : Byte) : wordOfLanes [b0] = b0.setWidth 32 := by
  apply BitVec.eq_of_toNat_eq
  change (0#8 ++ 0#8 ++ 0#8 ++ b0 : Word).toNat = _
  simp only [toNat_join, BitVec.toNat_setWidth, BitVec.toNat_ofNat]
  omega

/-- Two bytes fill the two low lanes. -/
theorem wordOfLanes_half (b0 b1 : Byte) : wordOfLanes [b0, b1] = (b1 ++ b0 : Half).setWidth 32 := by
  apply BitVec.eq_of_toNat_eq
  change (0#8 ++ 0#8 ++ b1 ++ b0 : Word).toNat = _
  simp only [toNat_join, BitVec.toNat_setWidth, BitVec.toNat_ofNat]
  omega

/-- A window read of written bytes carries byte k+i in lane i and 0 past the width (20_memory.md R51). -/
theorem laneRead_of_holds {m : Memory} {k : Nat} {w : Width} {bs : List Byte} (hl : bs.length = w.bytes)
    (h : m.Holds k bs) : laneRead m k w = some (wordOfLanes bs) := by
  cases w with
  | byte =>
    obtain ⟨b0, rfl⟩ := List.length_eq_one_iff.1 hl
    have h0 : m.read k = some b0 := h.read (j := 0) rfl
    rw [laneRead, h0, wordOfLanes_byte]
    rfl
  | half =>
    obtain ⟨b0, b1, rfl⟩ := List.length_eq_two.1 hl
    have h0 : m.read k = some b0 := h.read (j := 0) rfl
    have h1 : m.read (k + 1) = some b1 := h.read (j := 1) rfl
    rw [laneRead, h0, h1, wordOfLanes_half]
  | word =>
    match bs, hl with
    | [b0, b1, b2, b3], _ =>
      have h0 : m.read k = some b0 := h.read (j := 0) rfl
      have h1 : m.read (k + 1) = some b1 := h.read (j := 1) rfl
      have h2 : m.read (k + 2) = some b2 := h.read (j := 2) rfl
      have h3 : m.read (k + 3) = some b3 := h.read (j := 3) rfl
      rw [laneRead, h0, h1, h2, h3]
      rfl

/-- A window read that has its data word is answered OKAY with it and changes nothing. -/
theorem answerWindow_of_lanes {s : State} {rest : List HostEvent} {d : Word} {o : Option Word} (h : o = some d) :
    answerWindow { s with pending := rest } o = .next (answered s rest (.readDone .okay d)) := by
  rw [h]
  rfl

/-- A window read stops exactly where it has no data word (20_memory.md R67). -/
theorem answerWindow_eq_fault (s : State) (o : Option Word) :
    answerWindow s o = .fault .unwrittenRead ↔ o = none := by
  cases o <;> simp [answerWindow]

/-- Settles O13: on both windows the step is `answerWindow` of the lanes read. -/
theorem windowReadsReturnLanes : Obligations.WindowReadsReturnLanes := by
  intro s rest k w buf base hp ha hbuf h
  have hstep : step s = answerWindow { s with pending := rest } (laneRead buf k w) := by
    rcases hbuf with ⟨rfl, rfl, hk⟩ | ⟨rfl, rfl, hk⟩
    · exact step_read_pb hp ha hk h
    · exact step_read_sb hp ha hk h
  rw [hstep]
  exact ⟨fun bs hl hb => ⟨wordOfLanes bs, answerWindow_of_lanes (laneRead_of_holds hl hb),
      fun i hi => wordOfLanes_lane bs hi⟩,
    fun hu => (answerWindow_eq_fault _ _).2 ((laneRead_eq_none buf k w).2 hu)⟩

/-- Settles O14: of the ways a transaction ends, a read that is not refused has one. -/
theorem acceptedReadsHaveNoSideEffect : Obligations.AcceptedReadsHaveNoSideEffect := by
  intro s t rest a w hr h hs
  rw [step_of_issues h] at hs
  rcases transact_eq_next hs with ⟨hr', -⟩ | ⟨-, r, -, ⟨a', w', -, d, rfl, rfl⟩ | ⟨a', v, ht, -⟩ | ⟨v, ht, -⟩ |
    ⟨a', w', v, k, ht, -⟩ | ⟨a', w', v, k, ht, -⟩⟩
  · exact absurd hr' hr
  · exact ⟨d, rfl⟩
  all_goals cases ht

/-! ## Byte order -/

/-- The host reads a 16-bit wire field with its bytes reversed (20_memory.md R51, R54). -/
theorem wordOfLanes_bytes16 (v : Half) : wordOfLanes (bytes16 v) = (swap16 v).setWidth 32 :=
  wordOfLanes_half _ _

/-- The host reads a 32-bit wire field with its bytes reversed (20_memory.md R51, R54). -/
theorem wordOfLanes_bytes32 (v : Word) : wordOfLanes (bytes32 v) = swap32 v := rfl

/-- Byte i of four bytes reversed is byte 3 - i (44_byteorder_ops.md R133). -/
theorem swap32_byte (v : Word) {i : Nat} (hi : i < 4) :
    (swap32 v).extractLsb' (8 * i) 8 = v.extractLsb' (8 * (3 - i)) 8 := by
  rw [← wordOfLanes_bytes32, wordOfLanes_lane _ hi]
  interval_cases i <;> rfl

/-- The four bytes of a word, joined again one by one. -/
theorem join_lanes32 (v : Word) :
    (v.extractLsb' 24 8 ++ v.extractLsb' 16 8 ++ v.extractLsb' 8 8 ++ v.extractLsb' 0 8 : Word) = v := by
  apply BitVec.eq_of_toNat_eq
  simp only [toNat_join, toNat_byteAt]
  omega

/-- Reversing four bytes is its own inverse (44_byteorder_ops.md R133). -/
theorem swap32_swap32 (v : Word) : swap32 (swap32 v) = v := by
  have h0 : (swap32 v).extractLsb' 0 8 = v.extractLsb' 24 8 := swap32_byte v (i := 0) (by decide)
  have h1 : (swap32 v).extractLsb' 8 8 = v.extractLsb' 16 8 := swap32_byte v (i := 1) (by decide)
  have h2 : (swap32 v).extractLsb' 16 8 = v.extractLsb' 8 8 := swap32_byte v (i := 2) (by decide)
  have h3 : (swap32 v).extractLsb' 24 8 = v.extractLsb' 0 8 := swap32_byte v (i := 3) (by decide)
  rw [swap32, h0, h1, h2, h3, join_lanes32]

/-- Reversing eight bytes exchanges the words and reverses each (44_byteorder_ops.md R134). -/
theorem swap64_join (h l : Word) : swap64 (h ++ l) = swap32 l ++ swap32 h := by
  have hlow : ∀ k, k + 8 ≤ 32 → (h ++ l : DWord).extractLsb' k 8 = l.extractLsb' k 8 :=
    fun _ hk => BitVec.extractLsb'_append_eq_of_add_le hk
  have hhigh : ∀ k, (h ++ l : DWord).extractLsb' (32 + k) 8 = h.extractLsb' k 8 := fun k => by
    rw [BitVec.extractLsb'_append_eq_of_le (by omega), Nat.add_sub_cancel_left]
  rw [swap64, hlow 0 (by decide), hlow 8 (by decide), hlow 16 (by decide), hlow 24 (by decide), hhigh 0, hhigh 8,
    hhigh 16, hhigh 24]
  apply BitVec.eq_of_toNat_eq
  simp only [swap32, toNat_join]
  omega

/-- BSWAP16 of what a window read of a 16-bit field returns is the field (44_byteorder_ops.md R135). -/
theorem exec_bswap16_of_lanes {t : State} {v : Half} (ht : t.argLo = wordOfLanes (bytes16 v)) :
    ∃ u : State, exec .bswap16 t = .next u ∧ u.result.toNat = v.toNat := by
  have harg : t.arg16 = swap16 v := by
    rw [State.arg16, ht, wordOfLanes_bytes16]
    apply BitVec.eq_of_toNat_eq
    rw [BitVec.extractLsb'_toNat, BitVec.toNat_setWidth, Nat.shiftRight_zero]
    omega
  refine ⟨_, rfl, ?_⟩
  rw [State.result_answer, harg, swap16_swap16, BitVec.toNat_setWidth_of_le (by decide)]

/-- The step on a read of written bytes of the PB window. -/
theorem step_read_pb_of_holds {s : State} {rest : List HostEvent} {k : Nat} {w : Width} {bs : List Byte}
    (hp : s.params.Legal) (ha : k % w.bytes = 0) (hk : k + w.bytes ≤ s.params.pbSize) (hl : bs.length = w.bytes)
    (hb : s.pb.Holds k bs) (h : s.Issues (.read (BitVec.ofNat 18 (0x10000 + k)) w) rest) :
    step s = .next (answered s rest (.readDone .okay (wordOfLanes bs))) :=
  (step_read_pb hp ha hk h).trans (answerWindow_of_lanes (laneRead_of_holds hl hb))

/-- Settles O43: the lanes reverse the field's bytes, and BSWAP reverses them again. -/
theorem swapOfWindowReadIsTheWireField : Obligations.SwapOfWindowReadIsTheWireField := by
  refine ⟨fun s rest k v hp ha hk hb h => ?_, fun s rest k v hp ha hk hb h => ?_, fun s rest k v hp ha hk hb h => ?_⟩
  · obtain ⟨u, hu, hv⟩ := exec_bswap16_of_lanes
      (t := { answered s rest (.readDone .okay (wordOfLanes (bytes16 v))) with argLo := wordOfLanes (bytes16 v) }) rfl
    exact ⟨_, _, u, step_read_pb_of_holds hp ha hk rfl hb h, rfl, hu, hv⟩
  · refine ⟨_, _, _, step_read_pb_of_holds hp ha hk rfl hb h, rfl, rfl, ?_⟩
    rw [State.result_answer, wordOfLanes_bytes32, swap32_swap32, BitVec.toNat_setWidth_of_le (by decide)]
  · obtain ⟨hbhi, hblo⟩ := (Memory.holds_append _ _ _ _).1 hb
    have h1 := step_read_pb_of_holds hp (w := .word) ha (by simp only [Width.bytes]; omega) rfl hbhi h
    have ha2 : (k + 4) % Width.word.bytes = 0 := by simp only [Width.bytes]; omega
    have h2 := step_read_pb_of_holds (s := answered s (_ :: rest) _) hp ha2 hk rfl hblo (answered_issues h.1 _ rest
      (.readDone .okay (wordOfLanes (bytes32 (v.extractLsb' 32 32)))))
    refine ⟨_, _, _, _, _, h1, h2, rfl, rfl, ?_⟩
    rw [State.result_answer, State.arg, swap64_join, wordOfLanes_bytes32, wordOfLanes_bytes32, swap32_swap32,
      swap32_swap32, join32_extract]

/-! ## Faults -/

/-- An access to the PB window lies in its address range, whatever the parameters are (20_memory.md R50). -/
theorem decodeAccess_eq_pb {p : Params} {a : PortAddr} {w : Width} {k : Nat} (h : decodeAccess p a w = some (.pb k)) :
    0x10000 ≤ a.toNat ∧ a.toNat < 0x20000 ∧ a.toNat - 0x10000 = k := by
  unfold decodeAccess at h
  split_ifs at h <;> simp_all

/-- An access to the SB window lies in its address range, whatever the parameters are (20_memory.md R50). -/
theorem decodeAccess_eq_sb {p : Params} {a : PortAddr} {w : Width} {k : Nat} (h : decodeAccess p a w = some (.sb k)) :
    0x20000 ≤ a.toNat ∧ a.toNat < 0x30000 ∧ a.toNat - 0x20000 = k := by
  unfold decodeAccess at h
  split_ifs at h <;> simp_all

theorem mapNext_eq_fault (o : Host.Outcome State Fault Refusal) (f : State → State) (r : Fault) :
    mapNext o f = .fault r ↔ o = .fault r := by
  cases o <;> simp

/-- A read stops exactly where it is an accepted window read of an unwritten byte (20_memory.md R67). -/
theorem busRead_eq_fault (s : State) (a : PortAddr) (w : Width) :
    busRead s a w = .fault .unwrittenRead ↔ NeedsUnwritten s (.read a w) := by
  cases hd : decodeAccess s.params a w with
  | none => simp [busRead, hd, NeedsUnwritten, (decodeAccess_eq_none _ _ _).1 hd]
  | some x =>
    have hacc : ¬ PortRefuses s.params a w := fun hr => by
      rw [(decodeAccess_eq_none _ _ _).2 hr] at hd
      cases hd
    simp only [busRead, hd, NeedsUnwritten, hacc, not_false_eq_true, true_and]
    cases x with
    | register off =>
      obtain ⟨rfl, -, hlt, -⟩ := decodeAccess_inside hd
      simp only [reduceCtorEq, false_iff]
      omega
    | pb k =>
      obtain ⟨hlo, hhi, rfl⟩ := decodeAccess_eq_pb hd
      simp only [answerWindow_eq_fault, laneRead_eq_none, hlo, hhi, true_and, Nat.not_le.2 hhi, false_and, or_false]
    | sb k =>
      obtain ⟨hlo, hhi, rfl⟩ := decodeAccess_eq_sb hd
      simp only [answerWindow_eq_fault, laneRead_eq_none, hlo, hhi, true_and, Nat.not_lt.2 hlo, false_and, and_false,
        false_or]

/-- Issuing a word stops exactly where it decodes to a command that names an unwritten byte (20_memory.md R67). -/
theorem issueCommand_eq_fault (s : State) (v : Word) : issueCommand s v = .fault .unwrittenRead ↔
    ∃ i : Instr, decode v = .ok i ∧ ∃ k ∈ namedBytes s i, s.pb.Unwritten k := by
  cases hd : decode v with
  | error r => simp [issueCommand, hd]
  | ok i => simp [issueCommand, hd, exec_eq_fault]

/-- A write stops exactly where it is a CMD write whose command names an unwritten byte (20_memory.md R67). -/
theorem busWrite_eq_fault (s : State) (a : PortAddr) (w : Width) (v : Word) :
    busWrite s a w v = .fault .unwrittenRead ↔ NeedsUnwritten s (.write a w v) := by
  have hcmd : decodeAccess s.params 0x00010#18 .word = some (.register 0x10) :=
    decodeAccess_register s.params 0x00010#18 (by decide) (by decide)
  by_cases h : a = 0x00010#18 ∧ w = .word
  · obtain ⟨rfl, rfl⟩ := h
    simp only [busWrite, hcmd, regAt, writeRegister, mapNext_eq_fault, issueCommand_eq_fault, NeedsUnwritten, true_and]
  · refine iff_of_false (fun hf => ?_) (fun ⟨ha, hw, _⟩ => h ⟨ha, hw⟩)
    cases hd : decodeAccess s.params a w with
    | none => simp [busWrite, hd] at hf
    | some x =>
      cases x with
      | register off =>
        obtain ⟨rfl, rfl, -, -⟩ := decodeAccess_inside hd
        have hreg : regAt a.toNat ≠ .cmd := fun hr => h ⟨BitVec.eq_of_toNat_eq ((regAt_eq_cmd _).1 hr), rfl⟩
        simp [busWrite, hd, writeRegister_of_ne_cmd hreg] at hf
      | pb k => simp [busWrite, hd] at hf
      | sb k => simp [busWrite, hd] at hf

/-- A transaction stops exactly where it needs an unwritten byte (20_memory.md R67; log 4). -/
theorem transact_eq_fault (s : State) (t : Txn) : transact s t = .fault .unwrittenRead ↔ NeedsUnwritten s t := by
  cases t with
  | read a w => exact busRead_eq_fault s a w
  | write a w v => exact busWrite_eq_fault s a w v

/-! ## Completion -/

theorem mapNext_eq_refused (o : Host.Outcome State Fault Refusal) (f : State → State) (r : Refusal) :
    mapNext o f = .refused r ↔ o = .refused r := by
  cases o <;> simp

theorem answerWindow_ne_refused (s : State) (o : Option Word) (r : Refusal) : answerWindow s o ≠ .refused r := by
  cases o <;> simp [answerWindow]

/-- No register write is without a meaning: no command is. -/
theorem writeRegister_ne_refused (s : State) (x : Reg) (v : Word) (r : Refusal) : writeRegister s x v ≠ .refused r := by
  by_cases hx : x = .cmd
  · subst hx
    rw [writeRegister, issueCommand]
    split
    · exact exec_ne_refused _ s r
    · simp
  · rw [writeRegister_of_ne_cmd hx]
    simp

/-- No transaction is without a meaning. -/
theorem transact_ne_refused (s : State) (t : Txn) (r : Refusal) : transact s t ≠ .refused r := by
  cases t with
  | read a w =>
    rw [transact, busRead]
    split
    · simp
    · exact answerWindow_ne_refused _ _ r
    · exact answerWindow_ne_refused _ _ r
    · simp
  | write a w v =>
    rw [transact, busWrite]
    split
    · exact fun h => writeRegister_ne_refused _ _ _ r ((mapNext_eq_refused _ _ _).1 h)
    all_goals simp

/-- Issuing a word changes STATUS, RESULT and PB at most (40_classify.md R99, R105). -/
theorem issueCommand_frame {s t : State} {w : Word} (h : issueCommand s w = .next t) :
    t = { s with status := t.status, resultLo := t.resultLo, resultHi := t.resultHi, pb := t.pb } := by
  rcases issueCommand_eq_next h with ⟨r, -, rfl⟩ | ⟨i, -, hi⟩
  · rfl
  · exact exec_frame hi

/-- A transaction leaves the queue alone and has one response, ERROR exactly where the port refuses it (20_memory.md R49,
R52). -/
theorem transact_record {s u : State} {t : Txn} (h : transact s t = .next u) : u.pending = s.pending ∧
    ∃ r : Response, u.responses = r :: s.responses ∧ (r.isError = true ↔ PortRefuses s.params t.addr t.width) := by
  rcases transact_eq_next h with ⟨hr, r, he, rfl⟩ | ⟨hr, r, he, hu⟩
  · exact ⟨rfl, r, rfl, iff_of_true he hr⟩
  · obtain ⟨hpend, hresp⟩ : u.pending = s.pending ∧ u.responses = r :: s.responses := by
      rcases hu with ⟨a, w, -, d, -, rfl⟩ | ⟨a, v, -, -, -, -, rfl⟩ | ⟨v, -, -, x, hx, rfl⟩ |
        ⟨a, w, v, k, -, -, -, -, rfl⟩ | ⟨a, w, v, k, -, -, -, -, rfl⟩
      · exact ⟨rfl, rfl⟩
      · simp
      · rw [issueCommand_frame hx]
        exact ⟨rfl, rfl⟩
      · exact ⟨rfl, rfl⟩
      · exact ⟨rfl, rfl⟩
    exact ⟨hpend, r, hresp, iff_of_false (by simp [he]) hr⟩

/-- Settles O11: a transaction that does not stop answers a next state, since none is without a meaning. -/
theorem everyTransactionCompletes : Obligations.EveryTransactionCompletes := by
  intro s t rest h
  have hfault : transact { s with pending := rest } t = .fault .unwrittenRead ↔ NeedsUnwritten s t := by
    cases t <;> exact transact_eq_fault { s with pending := rest } _
  rw [step_of_issues h]
  refine ⟨fun hn => ?_, hfault.2⟩
  cases ho : transact { s with pending := rest } t with
  | next u =>
    obtain ⟨hpend, r, hresp, herr⟩ := transact_record ho
    exact ⟨u, r, rfl, hpend, hresp, herr⟩
  | fault r =>
    cases r
    exact absurd (hfault.1 ho) hn
  | refused r => exact absurd ho (transact_ne_refused _ t r)

end Sys2Proof.Machine
end

section
/-! SUPPORT. The statements on reset (70_reset_and_hazards.md) and on every step: the parameters, the sticky bits of STATUS
and the invariant. -/

namespace Sys2Proof.Machine

/-! ## Reset -/

/-- Without a release to come nothing waits for one (log 5). -/
theorem afterRelease_of_notMem {q : List HostEvent} (h : HostEvent.releaseReset ∉ q) : afterRelease q = none := by
  induction q with
  | nil => rfl
  | cons e q ih =>
    obtain ⟨he, hq⟩ := List.ne_and_not_mem_of_not_mem_cons h
    cases e with
    | releaseReset => exact absurd rfl he
    | assertReset => exact ih hq
    | bus t => rw [afterRelease, ih hq]; rfl

/-- The first release of the queue is taken out of it, and the transactions before it stay in order (log 5). -/
theorem afterRelease_of_release (ts : List Txn) (later : List HostEvent) :
    afterRelease (ts.map HostEvent.bus ++ .releaseReset :: later) = some (ts.map HostEvent.bus ++ later) := by
  induction ts with
  | nil => rfl
  | cons t ts ih => simp [afterRelease, ih]

/-- Settles O2, event by event. -/
theorem assertedResetClearsAndHoldsThePort : Obligations.AssertedResetClearsAndHoldsThePort := by
  refine ⟨fun s rest hp => ?_, fun s t rest hr hp => ⟨fun hn => ?_, fun ts later hrest => ?_⟩, fun s rest hp => ?_⟩
  · rw [step, advance, hp]
    rfl
  · simp only [step, advance, hp, hr, afterRelease_of_notMem hn, if_true]
  · simp only [step, advance, hp, hr, hrest, afterRelease_of_release, if_true]
  · rw [step, advance, hp]

/-- Settles O3: TICK_FREQ, PKT_LEN and ENC_CAP are 0 after reset. -/
theorem freshMachineScalesToZeroAndFailsSizeAndCap : Obligations.FreshMachineScalesToZeroAndFailsSizeAndCap := by
  intro p
  refine ⟨?_, ?_, fun i hi => ?_⟩
  · have hfreq : (State.resetWith p).tickFreq = 0#64 := by
      change (0#32 ++ 0#32 : DWord) = 0#64
      decide
    rw [exec, execScaleTs, tsToNs, if_pos hfreq, State.answer_eq]
  · have hlen : (State.resetWith p).pktLen.toNat < 8 := Nat.zero_lt_succ 7
    rw [exec, execGetDataSize_of_short (.inl hlen), State.failWith_size]
  · rw [exec_encoder hi]
    refine encodePacket_raises ?_ _ _
    unfold packetOf
    split <;> exact Nat.zero_lt_succ _

/-- Settles O15: the queue is the only source of change. -/
theorem idlingChangesNothing : Obligations.IdlingChangesNothing := by
  intro s hp
  rw [step, advance, hp]

/-! ## Parameters and the reset level -/

/-- No transaction changes a parameter or the reset level. -/
theorem transact_params_reset {s u : State} {t : Txn} (h : transact s t = .next u) :
    u.params = s.params ∧ u.resetAsserted = s.resetAsserted := by
  rcases transact_eq_next h with ⟨-, r, -, rfl⟩ | ⟨-, r, -, ⟨a, w, -, d, -, rfl⟩ | ⟨a, v, -, -, -, -, rfl⟩ |
    ⟨v, -, -, x, hx, rfl⟩ | ⟨a, w, v, k, -, -, -, -, rfl⟩ | ⟨a, w, v, k, -, -, -, -, rfl⟩⟩
  · exact ⟨rfl, rfl⟩
  · exact ⟨rfl, rfl⟩
  · simp
  · rw [issueCommand_frame hx]
    exact ⟨rfl, rfl⟩
  · exact ⟨rfl, rfl⟩
  · exact ⟨rfl, rfl⟩

/-- Settles O49, over the ways a step ends. -/
theorem parametersNeverChange : Obligations.ParametersNeverChange := by
  intro s t h
  rcases step_eq_next h with rfl | ⟨rest, -, rfl⟩ | ⟨q, rfl⟩ | ⟨x, rest, -, hx⟩
  · rfl
  · rfl
  · rfl
  · exact (transact_params_reset hx).1

/-! ## Sticky bits -/

/-- DONE and the E_* bits of one STATUS word that are set are set in the other (60_exceptions.md section 3). -/
def KeepsSticky (st st' : Word) : Prop :=
  ∀ j ∈ [0, 8, 9, 10, 11], st.getLsbD j = true → st'.getLsbD j = true

/-- The sticky bits are bits of STATUS outside LAST_ERR (10_state.md R24). -/
theorem sticky_bit_place : ∀ j ∈ [0, 8, 9, 10, 11], j < 32 ∧ ¬ (16 ≤ j ∧ j ≤ 19) := by decide

theorem keepsSticky_refl (st : Word) : KeepsSticky st st := fun _ _ h => h

theorem keepsSticky_statusFinish (st : Word) : KeepsSticky st (statusFinish st) := by
  intro j hj h
  obtain ⟨hlt, hlast⟩ := sticky_bit_place j hj
  rw [getLsbD_statusFinish st hlt, if_neg hlast, h, ite_self]

theorem keepsSticky_statusRaise (st : Word) (e : CmdError) : KeepsSticky st (statusRaise st e) := by
  intro j hj h
  obtain ⟨hlt, hlast⟩ := sticky_bit_place j hj
  rw [getLsbD_statusRaise st e hlt, if_neg hlast, h, ite_self, ite_self]

theorem keepsSticky_statusBus (st : Word) : KeepsSticky st (statusBus st) := by
  intro j hj h
  obtain ⟨hlt, -⟩ := sticky_bit_place j hj
  rw [getLsbD_statusBus st hlt, h, ite_self]

/-- A command keeps the sticky bits. -/
theorem exec_keepsSticky {i : Instr} {s t : State} (h : exec i s = .next t) : KeepsSticky s.status t.status := by
  rcases exec_status_cases h with ht | ⟨e, ht⟩ <;> rw [ht]
  · exact keepsSticky_statusFinish _
  · exact keepsSticky_statusRaise _ e

/-- Issuing a word keeps the sticky bits. -/
theorem issueCommand_keepsSticky {s t : State} {w : Word} (h : issueCommand s w = .next t) :
    KeepsSticky s.status t.status := by
  rcases issueCommand_eq_next h with ⟨r, -, rfl⟩ | ⟨i, -, hi⟩
  · exact keepsSticky_statusRaise _ .illegal
  · exact exec_keepsSticky hi

/-- A transaction that is no STATUS write keeps the sticky bits. -/
theorem transact_keepsSticky {s t : State} {x : Txn} (hx : ∀ w : Word, x ≠ .write 0x00014#18 .word w)
    (h : transact s x = .next t) : KeepsSticky s.status t.status := by
  rcases transact_eq_next h with ⟨-, r, -, rfl⟩ | ⟨-, r, -, ⟨a, w, -, d, -, rfl⟩ | ⟨a, v, ht, -, -, -, rfl⟩ |
    ⟨v, -, -, y, hy, rfl⟩ | ⟨a, w, v, k, -, -, -, -, rfl⟩ | ⟨a, w, v, k, -, -, -, -, rfl⟩⟩
  · exact keepsSticky_statusBus _
  · exact keepsSticky_refl _
  · have hreg : regAt a.toNat ≠ .status := fun hr => by
      have ha : a = 0x00014#18 := BitVec.eq_of_toNat_eq ((regAt_eq_status _).1 hr)
      exact hx v (ha ▸ ht)
    rw [State.respond_status, regWrite_status, if_neg hreg]
    exact keepsSticky_refl _
  · exact issueCommand_keepsSticky (t := y) hy
  · exact keepsSticky_refl _
  · exact keepsSticky_refl _

/-- Settles O48: the step is the transaction. -/
theorem errorBitsAreSticky : Obligations.ErrorBitsAreSticky := by
  intro s t rest x h hx hs
  rw [step_of_issues h] at hs
  have hkeep := transact_keepsSticky hx hs
  exact hkeep

/-! ## The invariant -/

/-- The invariant but for the reset level: what a transaction keeps. -/
structure State.Good (s : State) : Prop where
  params : s.params.Legal
  pb : s.pb.Within s.params.pbSize
  sb : s.sb.Within s.params.sbSize
  status : StatusLegal s.status
  warl : s.WarlLegal

theorem State.inv_iff (s : State) : s.Inv ↔ s.Good ∧ s.ResetHeld :=
  ⟨fun ⟨hp, hpb, hsb, hst, hw, hr⟩ => ⟨⟨hp, hpb, hsb, hst, hw⟩, hr⟩,
    fun ⟨⟨hp, hpb, hsb, hst, hw⟩, hr⟩ => ⟨hp, hpb, hsb, hst, hw, hr⟩⟩

/-- Reset leaves legal registers and empty buffers (10_state.md R42). -/
theorem State.good_resetWith {p : Params} (hp : p.Legal) : (State.resetWith p).Good where
  params := hp
  pb := ⟨List.Pairwise.nil, fun _ h => absurd h List.not_mem_nil⟩
  sb := ⟨List.Pairwise.nil, fun _ h => absurd h List.not_mem_nil⟩
  status := StatusLegal_reset
  warl := ⟨Nat.zero_le _, Nat.zero_le _⟩

/-- With reset released there is nothing it holds. -/
theorem State.resetHeld_of_released {s : State} (h : s.resetAsserted = false) : s.ResetHeld :=
  fun h' => absurd (h.symm.trans h') Bool.false_ne_true

/-- Settles O50: the registers are 0 and the buffers empty. -/
theorem invariantHoldsAtReset : Obligations.InvariantHoldsAtReset := by
  have hreset : ∀ p : Params, p.Legal → (State.resetWith p).Inv := fun p hp =>
    (State.inv_iff _).2 ⟨State.good_resetWith hp, State.resetHeld_of_released rfl⟩
  exact ⟨hreset, hreset defaultParams (by decide)⟩

namespace State.Good

variable {s : State}

theorem finish (h : s.Good) : s.finish.Good := { h with status := h.status.finish }

theorem answer (h : s.Good) (v : DWord) : (s.answer v).Good := { h with status := h.status.finish }

theorem failWith (h : s.Good) (e : CmdError) : (s.failWith e).Good := { h with status := h.status.raise e }

theorem illegalCommand (h : s.Good) : s.illegalCommand.Good := { h with status := h.status.raise .illegal }

theorem busErr (h : s.Good) : s.busErr.Good := { h with status := h.status.bus }

theorem respond (h : s.Good) (r : Response) : (s.respond r).Good := { h with }

theorem setPb (h : s.Good) {m : Memory} (hm : m.Within s.params.pbSize) : (s.setPb m).Good := { h with pb := hm }

theorem setSb (h : s.Good) {m : Memory} (hm : m.Within s.params.sbSize) : State.Good { s with sb := m } :=
  { h with sb := hm }

/-- A register write clamps what it must and stores no reserved STATUS bit (10_state.md R24-R28). -/
theorem regWrite (h : s.Good) (r : Reg) (v : Word) : (regWrite s r v).Good := by
  have hclamp : (clampToPb s v).toNat ≤ s.params.pbSize := by
    rw [toNat_clampToPb]
    exact min_le_right _ _
  obtain ⟨hp, hpb, hsb, hst, hlen, hcap⟩ := h
  cases r
  case status => exact ⟨hp, hpb, hsb, hst.w1c v, hlen, hcap⟩
  case pktLen => exact ⟨hp, hpb, hsb, hst, hclamp, hcap⟩
  case encCap => exact ⟨hp, hpb, hsb, hst, hlen, hclamp⟩
  all_goals exact ⟨hp, hpb, hsb, hst, hlen, hcap⟩

/-- The header lies inside PB (43_encoder.md R126). -/
theorem writeHeader (h : s.Good) (ct : BitVec 7) : (writeHeader s ct).Within s.params.pbSize := by
  have hsize := h.params.1
  exact ((h.pb.write16 (by omega) _).write16 (by omega) _).write32 (by omega) _

/-- A packet whose fixed size ENC_CAP covers lies inside PB (43_encoder.md R126-R129). -/
theorem packetOf (h : s.Good) {i : Instr} (hi : i ∈ encoders) (hcap : (packetOf i s).1 ≤ s.encCap.toNat) :
    (packetOf i s).2.1.Within s.params.pbSize := by
  have hsize := h.params.1
  have hwarl : s.encCap.toNat ≤ s.params.pbSize := h.warl.2
  simp only [encoders, List.mem_cons, List.not_mem_nil, or_false] at hi
  rcases hi with rfl | rfl | rfl <;> simp only [Machine.packetOf] at hcap ⊢
  · exact (((((((((h.writeHeader ctLeader).write16 (by omega) _).write16 (by omega) _).write32 (by omega) _).write32
      (by omega) _).write32 (by omega) _).write32 (by omega) _).write32 (by omega) _).write32 (by omega) _).write32
      (by omega) _
  · exact ((h.writeHeader ctTrailer).write32 (by omega) _).write32 (by omega) _
  · have hn : dataBlockLength s ≤ s.encCap.toNat - 8 := min_le_right _ _
    exact (h.writeHeader ctDataBlock).copyInto h.sb.1 (by omega)

/-- A command keeps the invariant. -/
theorem exec (h : s.Good) {i : Instr} {t : State} (hx : exec i s = .next t) : t.Good := by
  rcases exec_eq_next hx with ⟨-, rfl⟩ | ⟨-, v, rfl⟩ | ⟨-, rfl⟩ | ⟨hi, ⟨-, rfl⟩ | ⟨hcap, rfl⟩⟩
  · exact h.finish
  · exact h.answer v
  · exact h.failWith .size
  · exact h.failWith .cap
  · exact (h.setPb (h.packetOf hi hcap)).answer _

/-- A transaction keeps the invariant. -/
theorem transact (h : s.Good) {x : Txn} {t : State} (hx : transact s x = .next t) : t.Good := by
  rcases transact_eq_next hx with ⟨-, r, -, rfl⟩ | ⟨-, r, -, ⟨a, w, -, d, -, rfl⟩ | ⟨a, v, -, -, -, -, rfl⟩ |
    ⟨v, -, -, y, hy, rfl⟩ | ⟨a, w, v, k, -, -, -, hk, rfl⟩ | ⟨a, w, v, k, -, -, -, hk, rfl⟩⟩
  · exact h.busErr.respond r
  · exact h.respond r
  · exact (h.regWrite _ v).respond r
  · rcases issueCommand_eq_next hy with ⟨e, -, rfl⟩ | ⟨i, -, hi⟩
    · exact h.illegalCommand.respond r
    · exact (h.exec hi).respond r
  · exact (h.setPb (h.pb.laneWrite hk v)).respond r
  · exact (h.setSb (h.sb.laneWrite hk v)).respond r

end State.Good

/-- Settles O51: a transaction keeps the registers and buffers good, and runs with reset released alone. -/
theorem everyStepKeepsTheInvariant : Obligations.EveryStepKeepsTheInvariant := by
  intro s t hinv hs
  obtain ⟨hgood, hheld⟩ := (State.inv_iff s).1 hinv
  rw [State.inv_iff]
  rcases step_eq_next hs with rfl | ⟨rest, -, rfl⟩ | ⟨q, rfl⟩ | ⟨x, rest, ⟨hr, -⟩, hx⟩
  · exact ⟨hgood, hheld⟩
  · exact ⟨{ State.good_resetWith hgood.params with }, fun _ => rfl⟩
  · exact ⟨{ hgood with }, State.resetHeld_of_released rfl⟩
  · have hgood' : State.Good { s with pending := rest } := { hgood with }
    exact ⟨hgood'.transact hx, State.resetHeld_of_released ((transact_params_reset hx).2.trans hr)⟩

end Sys2Proof.Machine
end

section
/-! SUPPORT. The spec's own inferences on values: the round trips of the builders (43_encoder.md R130), the ranges of the
header accessors (41_header_fields.md R111) and the exactness of the scaler (42_leader_timestamp.md R123). -/

namespace Sys2Proof.Machine

/-! ## The header read back -/

/-- What the header accessors answer on a packet built from `s`, with its content type and payload size. -/
def headerAnswers (s : State) (ct size : Nat) : List (Instr × Nat) :=
  [(.getPacketType, 0), (.getHeaderMode, 0), (.getContentType, ct), (.getFrameId, s.inFrameId.toNat),
    (.getPacketId, s.inPacketId.toNat % 2 ^ 24), (.getDataOffset, 8), (.getDataSize, size)]

/-- The three low bytes of a word spell its low 24 bits. -/
theorem toNat_low24_bytes (v : Word) :
    (v.extractLsb' 16 8).toNat * 65536 + (v.extractLsb' 8 8).toNat * 256 + (v.extractLsb' 0 8).toNat =
      v.toNat % 2 ^ 24 := by
  simp only [toNat_byteAt]
  omega

/-- The header accessors give back what ENCODE_HEADER was given (43_encoder.md R130). -/
theorem exec_of_mem_headerAnswers {s u : State} {ct : Byte} (hct : ct.toNat < 128)
    (hb : u.pb.Holds 0 (headerBytes s ct)) (hlen : 8 ≤ u.pktLen.toNat) {i : Instr} {v : Nat}
    (hi : (i, v) ∈ headerAnswers s ct.toNat (u.pktLen.toNat - 8)) :
    exec i u = .next (finishedWith u (BitVec.ofNat 64 v)) := by
  obtain ⟨hstatus, hrest⟩ := (Memory.holds_append _ 0 ([0x00#8, 0x00#8] ++ bytes16 s.inFrameId) _).1 hb
  obtain ⟨-, hframe⟩ := (Memory.holds_append _ 0 [0x00#8, 0x00#8] _).1 hstatus
  have h0 : u.pb.read 0 = some 0x00#8 := hb.read (j := 0) rfl
  have h1 : u.pb.read 1 = some 0x00#8 := hb.read (j := 1) rfl
  have h4 : u.pb.read 4 = some ct := hb.read (j := 4) rfl
  have hoffset : payloadAt ct = 8 := if_pos hct
  obtain ⟨⟨-, hmode⟩, ⟨-, htype⟩, ⟨-, hcontent⟩, ⟨-, hdata⟩⟩ := headerModePacketTypeContentTypeAndOffset
  obtain ⟨-, hfid, -⟩ := frameIdByHeaderMode
  obtain ⟨-, hpid, -⟩ := packetIdByHeaderMode
  obtain ⟨-, -, hsize, -⟩ := dataSizeOrSizeError
  simp only [headerAnswers, List.mem_cons, Prod.mk.injEq, List.not_mem_nil, or_false] at hi
  rcases hi with ⟨rfl, rfl⟩ | ⟨rfl, rfl⟩ | ⟨rfl, rfl⟩ | ⟨rfl, rfl⟩ | ⟨rfl, rfl⟩ | ⟨rfl, rfl⟩ | ⟨rfl, rfl⟩
  · have hzero : (0x00#8).toNat * 256 + (0x00#8).toNat = 0 := rfl
    rw [htype u _ _ h0 h1, hzero]
  · rw [hmode u ct h4, Nat.div_eq_of_lt hct]
  · rw [hcontent u ct h4, Nat.mod_eq_of_lt hct]
  · exact hfid u ct _ hct h4 hframe
  · rw [hpid u ct _ _ _ hct hrest, toNat_low24_bytes]
  · rw [hdata u ct h4, if_pos hct]
  · rw [hsize u ct hlen h4, hoffset, if_neg (Nat.not_lt.2 hlen)]

/-! ## A packet as it is built -/

/-- The content type a builder writes (30_encoding.md R76). -/
def builtType : Instr → Byte
  | .encLeader => 0x01#8
  | .encTrailer => 0x02#8
  | _ => 0x03#8

theorem builtType_lt (e : Instr) : (builtType e).toNat < 128 := by
  unfold builtType
  split <;> decide

/-- The state a builder with capacity leaves: its packet in PB, the packet's length in RESULT (43_encoder.md R126). -/
def State.builtBy (s : State) (e : Instr) : State :=
  (s.setPb (packetOf e s).2.1).answer (BitVec.ofNat 64 (packetOf e s).2.2)

/-- PKT_LEN <- RESULT_LO. -/
def State.takeLength (t : State) : State := { t with pktLen := t.resultLo }

/-- A builder's packet starts with the header of its content type (43_encoder.md R126). -/
theorem packetOf_holds_header {e : Instr} (he : e ∈ encoders) (s : State) :
    (packetOf e s).2.1.Holds 0 (headerBytes s (builtType e)) := by
  simp only [encoders, List.mem_cons, List.not_mem_nil, or_false] at he
  rcases he with rfl | rfl | rfl <;> simp only [packetOf]
  · have hb := leaderPacket_holds s
    simp only [Memory.holds_append, and_assoc] at hb
    exact hb.1
  · have hb := trailerPacket_holds s
    simp only [Memory.holds_append, and_assoc] at hb
    exact hb.1
  · exact dataBlockPacket_holds s

section
variable {e : Instr} {s : State} (he : e ∈ encoders) (hcap : (packetOf e s).1 ≤ s.encCap.toNat)
include he hcap

theorem exec_eq_builtBy : exec e s = .next (s.builtBy e) := by
  rw [exec_encoder he, encodePacket_of_le hcap, State.builtBy]

/-- A packet is at least its header long, and fits in ENC_CAP (43_encoder.md R126). -/
theorem packetLength_bounds : 8 ≤ (packetOf e s).2.2 ∧ (packetOf e s).2.2 ≤ s.encCap.toNat := by
  simp only [encoders, List.mem_cons, List.not_mem_nil, or_false] at he
  rcases he with rfl | rfl | rfl <;> simp only [packetOf, dataBlockLength] at hcap ⊢ <;> omega

/-- RESULT_LO holds the whole length. -/
theorem toNat_builtBy_resultLo : (s.builtBy e).resultLo.toNat = (packetOf e s).2.2 := by
  have hfit := (packetLength_bounds he hcap).2
  have hlt := s.encCap.isLt
  rw [State.builtBy, State.answer_resultLo, BitVec.extractLsb'_toNat, toNat_packetLength, Nat.shiftRight_zero]
  omega

/-- The header accessors on a packet just built (43_encoder.md R130). -/
theorem exec_of_mem_headerAnswers_built {i : Instr} {v : Nat}
    (hi : (i, v) ∈ headerAnswers s (builtType e).toNat ((s.builtBy e).resultLo.toNat - 8)) :
    exec i (s.builtBy e).takeLength = .next (finishedWith (s.builtBy e).takeLength (BitVec.ofNat 64 v)) := by
  have hlen : 8 ≤ (s.builtBy e).takeLength.pktLen.toNat :=
    (packetLength_bounds he hcap).1.trans_eq (toNat_builtBy_resultLo he hcap).symm
  exact exec_of_mem_headerAnswers (builtType_lt e) (packetOf_holds_header he s) hlen hi

end

/-! ## The leader read back -/

/-- What the leader accessors answer on the leader built from `s`. -/
def leaderAnswers (s : State) : List (Instr × Nat) :=
  [(.getPayloadType, s.params.leaderPtype.toNat), (.getTsTicks, s.inTsHi.toNat * 2 ^ 32 + s.inTsLo.toNat),
    (.getPixelFormat, s.inPixelFormat.toNat), (.getWidth, s.inWidth.toNat), (.getHeight, s.inHeight.toNat),
    (.getXOffset, s.inXOffset.toNat), (.getYOffset, s.inYOffset.toNat)]

/-- The leader accessors give back what the leader builder was given (43_encoder.md R130). -/
theorem exec_of_mem_leaderAnswers {s u : State} (hu : u.pb = leaderPacket s) {i : Instr} {v : Nat}
    (hi : (i, v) ∈ leaderAnswers s) : exec i u = .next (finishedWith u (BitVec.ofNat 64 v)) := by
  have hb := leaderPacket_holds s
  rw [← hu] at hb
  have h4 : u.pb.read 4 = some 0x01#8 := hb.read (j := 4) rfl
  simp only [Memory.holds_append, and_assoc] at hb
  obtain ⟨-, -, hcode, htsHi, htsLo, hformat, hwidth, hheight, hx, hy⟩ := hb
  obtain ⟨-, -, hpayload⟩ := payloadTypeAndBufferKind
  obtain ⟨-, -, -, hticks⟩ := leaderTicksAndNanoseconds
  simp only [leaderAnswers, List.mem_cons, Prod.mk.injEq, List.not_mem_nil, or_false] at hi
  rcases hi with ⟨rfl, rfl⟩ | ⟨rfl, rfl⟩ | ⟨rfl, rfl⟩ | ⟨rfl, rfl⟩ | ⟨rfl, rfl⟩ | ⟨rfl, rfl⟩ | ⟨rfl, rfl⟩
  · exact (hpayload u _ _ h4 hcode).1
  · exact (hticks u _ _ _ h4 ((Memory.holds_append _ _ _ _).2 ⟨htsHi, htsLo⟩)).1
  · exact answerLeader32_of_holds h4 hformat
  · exact answerLeader32_of_holds h4 hwidth
  · exact answerLeader32_of_holds h4 hheight
  · exact answerLeader32_of_holds h4 hx
  · exact answerLeader32_of_holds h4 hy

/-- Settles O38: the fourteen accessors are those of the header and those of the leader. -/
theorem leaderRoundTrip : Obligations.LeaderRoundTrip := by
  intro s hcap
  have he : Instr.encLeader ∈ encoders := by decide
  have hcap' : (packetOf .encLeader s).1 ≤ s.encCap.toNat := hcap
  refine ⟨_, exec_eq_builtBy he hcap', fun i v hi => ?_⟩
  have hsize : (s.builtBy .encLeader).resultLo.toNat - 8 = 32 := by
    rw [toNat_builtBy_resultLo he hcap']
    simp only [packetOf]
  rcases List.mem_append.1 (show (i, v) ∈ headerAnswers s 1 32 ++ leaderAnswers s from hi) with hi | hi
  · exact exec_of_mem_headerAnswers_built he hcap' (by rw [hsize]; exact hi)
  · have hpb : (s.builtBy .encLeader).takeLength.pb = leaderPacket s := by
      simp only [State.takeLength, State.builtBy, State.answer_pb, State.setPb_pb, packetOf]
    exact exec_of_mem_leaderAnswers hpb hi

/-- Settles O39: both packets have the header's round trip, and the copy gives the payload. -/
theorem trailerAndDataBlockRoundTrip : Obligations.TrailerAndDataBlockRoundTrip := by
  intro e ct fixed s hmem hcap
  obtain ⟨he, hct, hfixed⟩ : e ∈ encoders ∧ ct = (builtType e).toNat ∧ fixed = (packetOf e s).1 := by
    simp only [List.mem_cons, Prod.mk.injEq, List.not_mem_nil, or_false] at hmem
    rcases hmem with ⟨rfl, rfl, rfl⟩ | ⟨rfl, rfl, rfl⟩ <;> exact ⟨by decide, rfl, rfl⟩
  subst hct hfixed
  refine ⟨_, exec_eq_builtBy he hcap, fun hd j hj => ?_, fun i v hi => exec_of_mem_headerAnswers_built he hcap hi⟩
  rw [toNat_builtBy_resultLo he hcap] at hj
  subst hd
  exact dataBlockPacket_read_payload s (Nat.lt_of_add_lt_add_left hj)

/-! ## Ranges of the header accessors -/

/-- Settles O27: compact ids are fields of 16 and 24 bits, and the content type is the number of its seven bits. -/
theorem compactIdsInRangeAndTypeIgnoresMode : Obligations.CompactIdsInRangeAndTypeIgnoresMode := by
  refine ⟨fun s t b4 h4 hm => ⟨fun h => ?_, fun h => ?_⟩, fun s b b' hb => ?_⟩
  · obtain ⟨v, hv, rfl⟩ := (answerRead_eq_next _ _ _).1 h
    rw [pbFrameId_compact h4 hm, Option.map_eq_some_iff] at hv
    obtain ⟨f, -, rfl⟩ := hv
    rw [State.result_answer, BitVec.toNat_setWidth_of_le (by decide)]
    exact f.isLt
  · obtain ⟨v, hv, rfl⟩ := (answerRead_eq_next _ _ _).1 h
    rw [pbPacketId_compact h4 hm, Option.map_map, Option.map_eq_some_iff] at hv
    obtain ⟨p, -, rfl⟩ := hv
    rw [State.result_answer, Function.comp_apply, BitVec.toNat_setWidth_of_le (by decide),
      BitVec.toNat_setWidth_of_le (by decide)]
    exact (p.extractLsb' 0 24).isLt
  · obtain ⟨-, -, ⟨-, htype⟩, -⟩ := headerModePacketTypeContentTypeAndOffset
    refine ⟨_, _, htype _ b (Memory.read_set_self _ _ _), htype _ b' (Memory.read_set_self _ _ _), ?_⟩
    rw [← State.answer_eq, ← State.answer_eq, State.result_answer, State.result_answer, hb]

/-! ## Exactness of the scaler -/

/-- R120's formula is the exact quotient where no product or sum reaches 2^64 (42_leader_timestamp.md R123). -/
theorem tsNsSpec_exact {t f : Nat} (hf : 1 ≤ f) (hprod : t / f * 1000000000 + 1000000000 ≤ 2 ^ 64)
    (hrem : t % f * 1000000000 < 2 ^ 64) : tsNsSpec t f = t * 10 ^ 9 / f := by
  have hfrac : t % f * 1000000000 / f < 1000000000 :=
    Nat.div_lt_of_lt_mul (Nat.mul_lt_mul_of_pos_right (Nat.mod_lt t hf) (by decide))
  have hlow : t / f * 1000000000 < 2 ^ 64 := (Nat.lt_add_of_pos_right (by decide)).trans_le hprod
  have hsum : t / f * 1000000000 + t % f * 1000000000 / f < 2 ^ 64 := (Nat.add_lt_add_left hfrac _).trans_le hprod
  have hquot : t * 10 ^ 9 / f = t / f * 1000000000 + t % f * 1000000000 / f := by
    calc t * 10 ^ 9 / f = (f * (t / f * 1000000000) + t % f * 1000000000) / f := by
          congr 1
          conv_lhs => rw [← Nat.div_add_mod t f]
          ring
      _ = t / f * 1000000000 + t % f * 1000000000 / f := Nat.mul_add_div hf _ _
  rw [tsNsSpec, if_neg (Nat.ne_of_gt hf), Nat.mod_eq_of_lt hrem, hquot, Nat.mod_eq_of_lt hlow, Nat.mod_eq_of_lt hsum]

theorem tsNsSpec_lt (t f : Nat) : tsNsSpec t f < 2 ^ 64 := by
  unfold tsNsSpec
  split
  · decide
  · exact Nat.mod_lt _ (by decide)

/-- SCALE_TS answers R120's formula on the numbers of ARG and TICK_FREQ (42_leader_timestamp.md R122). -/
theorem exec_scaleTs_result (s : State) :
    ∃ t : State, exec .scaleTs s = .next t ∧ t.result.toNat = tsNsSpec s.arg.toNat s.tickFreq.toNat := by
  refine ⟨_, rfl, ?_⟩
  rw [State.result_answer, tsToNs_eq, BitVec.toNat_ofNat, Nat.mod_eq_of_lt (tsNsSpec_lt _ _)]

/-- Settles O32: both clauses lie where the formula is exact. -/
theorem scalerExactInItsRange : Obligations.ScalerExactInItsRange := by
  refine ⟨fun s h1 hf hq => ?_, fun s h1 heq => ?_⟩
  · obtain ⟨t, ht, hv⟩ := exec_scaleTs_result s
    have hmod : s.arg.toNat % s.tickFreq.toNat < s.tickFreq.toNat := Nat.mod_lt _ h1
    exact ⟨t, ht, hv.trans (tsNsSpec_exact h1 (by omega) (by omega))⟩
  · obtain ⟨t, ht, hv⟩ := exec_scaleTs_result s
    have hdiv : s.tickFreq.toNat / s.tickFreq.toNat = 1 := Nat.div_self h1
    have hmod : s.tickFreq.toNat % s.tickFreq.toNat = 0 := Nat.mod_self _
    rw [heq, tsNsSpec_exact h1 (by omega) (by omega), Nat.mul_div_cancel_left _ h1] at hv
    exact ⟨t, ht, hv⟩

end Sys2Proof.Machine
end
